-- ==== Sys2Proof/Word.lean ====
section
/-! DEFINITION. The widths the spec names and the closed sets of values its fields take (10_state.md R20-R31, 30_encoding.md
R70-R74). Flags and pin levels of one bit are `Bool`: `true` is 1 (high, mark), `false` is 0 (low, space). -/

namespace Sys2Proof

/-- One byte of the sample buffer or of the host view (R32, R37). -/
abbrev Byte := BitVec 8

/-- An event word `EW[3:0]` (R73). -/
abbrev EventWord := BitVec 4

/-- A dispatch key `DK[7:0]` (R75). -/
abbrev Key := BitVec 8

/-- The mode arbiter's state `MODE` (R21). -/
inductive Mode where
  | idle
  | sampling
  | armed
  | transmitting
  deriving DecidableEq, Repr

/-- The transmitter sub-state `TXS` (R22); `reserved` is the value 0b11 (R71). -/
inductive Txs where
  | start
  | data
  | stop
  | reserved
  deriving DecidableEq, Repr

/-- The control of the timing source `TMR` (R30); `reserved` is the value 0b11 (R72). -/
inductive Tmr where
  | stop
  | sample
  | bit
  | reserved
  deriving DecidableEq, Repr

/-- The closed set of events (R11, R74). -/
inductive Evt where
  | reset
  | edge
  | esvc
  | tick
  | handoff
  | status
  deriving DecidableEq, Repr

/-- The two locations of the host view (R37). -/
inductive HostLoc where
  | status
  | cmd
  deriving DecidableEq, Repr

end Sys2Proof
end

