-- ==== Sys2Proof/Config.lean ====
section
/-! DEFINITION. What an implementation fixes (00_scope.md R5, R6, R42) and the free values, the spec's draws (R8, R12). A free
value is a constant without a body: nothing in Lean can compute it, so a claim that holds, holds for every value of it. -/

namespace Sys2Proof

/-- The implementation parameters of R5 that a model takes as arguments. `sampleHz` and `baud` are timing only. -/
structure Config where
  /-- `CAP`, the sample buffer's capacity in bytes, header byte included. -/
  cap : Nat
  /-- `HEADER`, the constant held in buffer byte 0. -/
  header : Byte
  /-- `SAMPLE_HZ`, the tick rate while sampling. -/
  sampleHz : Nat
  /-- `BAUD`, the tick rate while transmitting. -/
  baud : Nat
  deriving DecidableEq, Repr

/-- The column "this hardware" of R5. UNVERIFIED (entry 4): the spec says MLP's numeric literals are unaudited. -/
def Config.thisHardware : Config :=
  { cap := 201, header := 0x20#8, sampleHz := 100000, baud := 9600 }

/-- How many samples a capture takes (R6, R125). -/
def Config.captureBits (c : Config) : Nat := (c.cap - 1) * 8

/-- How many bit periods a transmission takes (R6, R165). -/
def Config.transmitPeriods (c : Config) : Nat := c.cap * 10

/-- The tick rate in Hz that a setting of `TMR` selects: none, `SAMPLE_HZ` or `BAUD` (R30, R72, R212). -/
def Config.tickHz (c : Config) : Tmr → Option Nat
  | .stop => none
  | .sample => some c.sampleHz
  | .bit => some c.baud
  | .reserved => none

/-- What a byte of the buffer reads as while the memory lists nothing for it: `HEADER` at index 0 (R40, R51), and 0x00 at a
data index. DESIGN CHOICE (entry 6, unsafe): R40 says the data bytes are a draw at reset. -/
def Config.unlisted (c : Config) (i : Nat) : Byte := if i = 0 then c.header else 0x00#8

/-- `CLK_HZ`, OPEN (R5, entry 17); no rule depends on it. -/
opaque Config.clkHz : Nat

/-- `HOST_BASE`, OPEN (R5, R37, entry 17). -/
opaque Config.hostBase : Nat

/-- The draw of `TXS` at the `n`-th draw, by a RESET (R40, entry 7). -/
opaque Config.drawTxs : Nat → BitVec 2

/-- The draw of `TXBYTE` by a RESET (R40, entry 7). -/
opaque Config.drawTxbyte : Nat → BitVec 8

/-- The draw of `TXBIT` by a RESET (R40, entry 7). -/
opaque Config.drawTxbit : Nat → BitVec 4

/-- The draw of `STAGED`, by a RESET (R40, entry 7) or by a staged read that names no buffer bit (R155, entries 8 and 9). -/
opaque Config.drawStaged : Nat → Bool

/-- The draw of data byte `i` by a RESET: `drawByte n i` (R40, entry 7). -/
opaque Config.drawByte : Nat → Nat → Byte

/-- The draw of which enabled event comes next, when no event is queued (R10, R12, entry 2). -/
opaque Config.drawEvent : Nat → Nat

end Sys2Proof
end

