-- ==== Sys2Proof/Syntax.lean ====
section
/-! DEFINITION. The block's operations: one constructor per row of spec/opcode_table.json (30_encoding.md R75-R77). -/

namespace Sys2Proof

/-- An operation of the block. The one explicit operand is the data bit `d` of a `TICK` (R73, R77): the level of `RX_IN` at the
tick. `TICK.SMP` stores it; the transmit ticks carry it and ignore it (R76). -/
inductive Instr where
  /-- `RESET`, R230 -/
  | reset
  /-- `EDGE`, R101 -/
  | edge
  /-- `ESVC`, R103 -/
  | esvc
  /-- `TICK.SMP`, R121 -/
  | tickSmp (d : Bool)
  /-- `TICK.TX.START`, R145 -/
  | tickTxStart (d : Bool)
  /-- `TICK.TX.DATA`, R150 -/
  | tickTxData (d : Bool)
  /-- `TICK.TX.STOP`, R160 -/
  | tickTxStop (d : Bool)
  /-- `HANDOFF`, R140 -/
  | handoff
  /-- `STATUS`, R175 -/
  | status
  deriving DecidableEq, Repr

end Sys2Proof
end

