-- ==== Sys2Proof/WellFormed.lean ====
section
/-! DEFINITION. The checks of well-formedness: of a configuration (00_scope.md R5), of an event word (30_encoding.md R78) and of
the operands of a CAPTURE (R83). A value of `Instr` needs none: its only operand is one bit (R77), and both bits are legal. -/

namespace Sys2Proof

/-- The admitted configurations of R5: `CAP` in 2 .. 255, and `HEADER` with bit 0 = 0 (R239). -/
def Config.wf (c : Config) : Bool :=
  decide (2 ≤ c.cap) && decide (c.cap ≤ 255) && !c.header.getLsbD 0

/-- The legal event words: those R78 does not list. Illegal are `EVT` = 0b110 and 0b111, and `D` = 1 outside `TICK`. -/
def EventWord.wf (ew : EventWord) : Bool :=
  let evt := ew.extractLsb' 1 3
  decide (evt.toNat < 6) && (!ew.getLsbD 0 || evt == 0b011#3)

/-- The operands of `CAPTURE v1, ..., vK`: K = `CAP`-1 bytes (R83). -/
def Config.captureWf (c : Config) (vs : List Byte) : Bool := decide (vs.length = c.cap - 1)

end Sys2Proof
end

