-- ==== Sys2Proof/Decode.lean ====
section
/-! DEFINITION. The encodings of 30_encoding.md: field encodings (R70-R72), event words (R73, R74), the dispatch key and the
opcode table (R75, R76), the keys that no row matches (R78, R79); then the encoder, from the same tables. -/

namespace Sys2Proof

/-- `MODE` encoding (R70). -/
def Mode.bits : Mode → BitVec 2
  | .idle => 0b00#2
  | .sampling => 0b01#2
  | .armed => 0b10#2
  | .transmitting => 0b11#2

/-- The mode that two bits encode (R70); all four values are legal. -/
def Mode.ofBits (b : BitVec 2) : Mode :=
  match b.toNat with
  | 0 => .idle
  | 1 => .sampling
  | 2 => .armed
  | _ => .transmitting

/-- `TXS` encoding (R71). -/
def Txs.bits : Txs → BitVec 2
  | .start => 0b00#2
  | .data => 0b01#2
  | .stop => 0b10#2
  | .reserved => 0b11#2

/-- The sub-state that two bits encode (R71). -/
def Txs.ofBits (b : BitVec 2) : Txs :=
  match b.toNat with
  | 0 => .start
  | 1 => .data
  | 2 => .stop
  | _ => .reserved

/-- `TMR` encoding (R72). -/
def Tmr.bits : Tmr → BitVec 2
  | .stop => 0b00#2
  | .sample => 0b01#2
  | .bit => 0b10#2
  | .reserved => 0b11#2

/-- Event codes `EVT` (R74). -/
def Evt.bits : Evt → BitVec 3
  | .reset => 0b000#3
  | .edge => 0b001#3
  | .esvc => 0b010#3
  | .tick => 0b011#3
  | .handoff => 0b100#3
  | .status => 0b101#3

/-- The event that a code names (R74); 0b110 and 0b111 are reserved. -/
def Evt.ofBits (b : BitVec 3) : Option Evt :=
  match b.toNat with
  | 0 => some .reset
  | 1 => some .edge
  | 2 => some .esvc
  | 3 => some .tick
  | 4 => some .handoff
  | 5 => some .status
  | _ => none

/-- Why a dispatch key selects no operation. -/
inductive Reject where
  /-- An illegal event word (R78). -/
  | illegalEventWord
  /-- `ESVC` with `MODE` ≠ IDLE (R79, first item). -/
  | esvcNotIdle
  /-- `TICK` with `MODE` IDLE or ARMED (R79, second item; R174). -/
  | tickOutOfCycle
  /-- `TICK` with `MODE` = TRANSMITTING and `TXS` = 0b11 (R79, third item; R173). -/
  | reservedTxState
  deriving DecidableEq, Repr

/-- The event and the data bit of an event word (R73, R74); `none` for the words of R78. -/
def EventWord.fields (ew : EventWord) : Option (Evt × Bool) :=
  match Evt.ofBits (ew.extractLsb' 1 3) with
  | none => none
  | some .tick => some (.tick, ew.getLsbD 0)
  | some e => if ew.getLsbD 0 then none else some (e, false)

/-- The operation of a tick: `MODE` is tested first, then `TXS` (R172). -/
def decodeTick (d : Bool) (m : Mode) (x : Txs) : Except Reject Instr :=
  match m with
  | .sampling => .ok (.tickSmp d)
  | .transmitting =>
    match x with
    | .start => .ok (.tickTxStart d)
    | .data => .ok (.tickTxData d)
    | .stop => .ok (.tickTxStop d)
    | .reserved => .error .reservedTxState
  | .idle => .error .tickOutOfCycle
  | .armed => .error .tickOutOfCycle

/-- The operation selected by the three fields of a dispatch key (R75, R76, R79). -/
def decodeFields (ew : EventWord) (m : Mode) (x : Txs) : Except Reject Instr :=
  match ew.fields with
  | none => .error .illegalEventWord
  | some (.reset, _) => .ok .reset
  | some (.edge, _) => .ok .edge
  | some (.esvc, _) =>
    match m with
    | .idle => .ok .esvc
    | .sampling => .error .esvcNotIdle
    | .armed => .error .esvcNotIdle
    | .transmitting => .error .esvcNotIdle
  | some (.tick, d) => decodeTick d m x
  | some (.handoff, _) => .ok .handoff
  | some (.status, _) => .ok .status

/-- `DK[7:4]`, the event word of a key (R75). -/
def keyWord (k : Key) : EventWord := k.extractLsb' 4 4

/-- `DK[3:2]`, the mode of a key (R75). -/
def keyMode (k : Key) : Mode := Mode.ofBits (k.extractLsb' 2 2)

/-- `DK[1:0]`, the transmitter sub-state of a key (R75). -/
def keyTxs (k : Key) : Txs := Txs.ofBits (k.extractLsb' 0 2)

/-- `DK = {EW, MODE, TXS}` (R75). -/
def mkKey (ew : EventWord) (m : Mode) (x : Txs) : Key := ew ++ m.bits ++ x.bits

/-- The decoder: total on all 256 dispatch keys, and a key that matches no row is rejected by name. -/
def decode (k : Key) : Except Reject Instr := decodeFields (keyWord k) (keyMode k) (keyTxs k)

/-- The decoder on a word numbered as spec/opcode_table.json numbers it: 8 bits, `DK[0]` the least significant. Bits of `w` at
`nbits` and above are 0, and a word wider than a key is no key. -/
def decodeTableWord (nbits w : Nat) : Option Instr :=
  if w % 2 ^ nbits < 256 then (decode (BitVec.ofNat 8 (w % 2 ^ nbits))).toOption else none

/-- A row of spec/opcode_table.json: a key `k` matches it when `k &&& mask = fixed` (R75). -/
structure TableRow where
  mnemonic : String
  fixed : Key
  mask : Key
  deriving DecidableEq, Repr

/-- The rows of spec/opcode_table.json in its order (R76). -/
def opcodeTable : List TableRow :=
  [ ⟨"RESET", 0x00#8, 0xF0#8⟩,
    ⟨"EDGE", 0x20#8, 0xF0#8⟩,
    ⟨"ESVC", 0x40#8, 0xFC#8⟩,
    ⟨"TICK.SMP", 0x64#8, 0xEC#8⟩,
    ⟨"TICK.TX.START", 0x6C#8, 0xEF#8⟩,
    ⟨"TICK.TX.DATA", 0x6D#8, 0xEF#8⟩,
    ⟨"TICK.TX.STOP", 0x6E#8, 0xEF#8⟩,
    ⟨"HANDOFF", 0x80#8, 0xF0#8⟩,
    ⟨"STATUS", 0xA0#8, 0xF0#8⟩ ]

/-- A key matches a row (R75). -/
def TableRow.matchesKey (r : TableRow) (k : Key) : Bool := k &&& r.mask == r.fixed

/-- The mnemonic of an operation, as spec/opcode_table.json spells it. -/
def Instr.mnemonic : Instr → String
  | .reset => "RESET"
  | .edge => "EDGE"
  | .esvc => "ESVC"
  | .tickSmp _ => "TICK.SMP"
  | .tickTxStart _ => "TICK.TX.START"
  | .tickTxData _ => "TICK.TX.DATA"
  | .tickTxStop _ => "TICK.TX.STOP"
  | .handoff => "HANDOFF"
  | .status => "STATUS"

/-- The event that performs an operation (R74, R172). -/
def Instr.evt : Instr → Evt
  | .reset => .reset
  | .edge => .edge
  | .esvc => .esvc
  | .tickSmp _ => .tick
  | .tickTxStart _ => .tick
  | .tickTxData _ => .tick
  | .tickTxStop _ => .tick
  | .handoff => .handoff
  | .status => .status

/-- The data bit of an operation's event word (R73). -/
def Instr.dataBit : Instr → Bool
  | .tickSmp d => d
  | .tickTxStart d => d
  | .tickTxData d => d
  | .tickTxStop d => d
  | .reset => false
  | .edge => false
  | .esvc => false
  | .handoff => false
  | .status => false

/-- The event word `{EVT, D}` (R73). -/
def mkWord (e : Evt) (d : Bool) : EventWord := e.bits ++ BitVec.ofBool d

/-- The event word an operation is written as (R82, last column). -/
def Instr.word (i : Instr) : EventWord := mkWord i.evt i.dataBit

/-- The bits of the key that an operation fixes: its row's mask, and `D` where the row has `d` (R76). -/
def Instr.keyMask : Instr → Key
  | .reset => 0xF0#8
  | .edge => 0xF0#8
  | .esvc => 0xFC#8
  | .tickSmp _ => 0xFC#8
  | .tickTxStart _ => 0xFF#8
  | .tickTxData _ => 0xFF#8
  | .tickTxStop _ => 0xFF#8
  | .handoff => 0xF0#8
  | .status => 0xF0#8

/-- The values of those bits: the row's `match`, and the data bit at `DK[4]` (R76). -/
def Instr.keyBits : Instr → Key
  | .reset => 0x00#8
  | .edge => 0x20#8
  | .esvc => 0x40#8
  | .tickSmp d => 0x64#8 ||| bif d then 0x10#8 else 0x00#8
  | .tickTxStart d => 0x6C#8 ||| bif d then 0x10#8 else 0x00#8
  | .tickTxData d => 0x6D#8 ||| bif d then 0x10#8 else 0x00#8
  | .tickTxStop d => 0x6E#8 ||| bif d then 0x10#8 else 0x00#8
  | .handoff => 0x80#8
  | .status => 0xA0#8

/-- The encoder: the key of an operation, its don't-care bits (the `x` of R76) taken from `fill`. -/
def encode (i : Instr) (fill : Key) : Key := i.keyBits ||| (fill &&& ~~~ i.keyMask)

end Sys2Proof
end

