-- ==== Sys2Proof/Machine/State.lean ====
section
/-! DEFINITION. The machine's state as plain data (10_state.md R20-R32), the reasons a step can stop (00_scope.md R13,
60_exceptions.md R201) and the state after reset (R40). -/

namespace Sys2Proof.Machine

/-- What one step services: an event word (R73), or an access of the host to one of its two locations (R37). -/
inductive Stimulus where
  /-- An event presented by its event word. -/
  | word (ew : EventWord)
  /-- The host reads a location. -/
  | hostRead (l : HostLoc)
  /-- The host writes a location. -/
  | hostWrite (l : HostLoc) (v : Byte)
  deriving DecidableEq, Repr

/-- The sample buffer's contents as (index, byte) pairs: indices strictly rising, and no pair that says what its index reads as
when it is not listed (`Config.unlisted`). -/
abbrev Memory := List Host.Cell

/-- The state of the block, its configuration, and the model's own record of inputs and outputs. -/
structure State where
  /-- `CAP`, `HEADER` and the two rates (R5, R42): configuration, which no event writes (entry 4). -/
  cfg : Config
  /-- `MODE` (R21) -/
  mode : Mode
  /-- `TXS` (R22) -/
  txs : Txs
  /-- `SBYTE` (R23) -/
  sbyte : BitVec 8
  /-- `SBIT` (R24) -/
  sbit : BitVec 3
  /-- `TXBYTE` (R25) -/
  txbyte : BitVec 8
  /-- `TXBIT` (R26) -/
  txbit : BitVec 4
  /-- `STAGED` (R27) -/
  staged : Bool
  /-- `EDGE_IE` (R28) -/
  edgeIe : Bool
  /-- `EDGE_IFG` (R29) -/
  edgeIfg : Bool
  /-- `TMR` (R30) -/
  tmr : Tmr
  /-- `TX_OUT` (R31) -/
  txOut : Bool
  /-- `BUF` (R32) -/
  buf : Memory
  /-- The model's own (entry 1): the stimuli not yet serviced, oldest first. -/
  inputs : List Stimulus
  /-- The model's own (entry 15): the bytes the host's reads have returned, latest first (R175, R234). -/
  hostReads : List Byte
  /-- The model's own (entry 3): how many times a free value has been taken; no rule reads it but as the index of a draw. -/
  draws : Nat
  deriving DecidableEq, Repr

/-- Why the machine stops. `dk` is the dispatch key that caused it (R201). -/
inductive Fault where
  /-- Raised by a `TICK` with `MODE` = TRANSMITTING and `TXS` = 0b11 (R173). Safe: no state reachable from reset has it (R176). -/
  | reservedTxState (dk : Key)
  /-- Raised by an enabled `TICK` with `MODE` IDLE or ARMED (R174). Safe: unreachable from reset (R176). -/
  | tickOutOfCycle (dk : Key)
  /-- The stuck state of an event presented while it is not enabled: it has no step (R205, R102, R79; entry 10). Raised by the
  step and by the meanings of `ESVC` and the ticks. Safe: the machine stops, and no run of the block goes on from there. -/
  | notEnabled (dk : Key)
  /-- Raised by `TICK.SMP` with `SBYTE` ≥ `CAP`: the index names no byte of the buffer (R8, R50; entry 12). Safe: unreachable
  from reset (R56, R176). -/
  | bufferIndex (dk : Key)
  deriving DecidableEq, Repr

/-- Why the machine gives a stimulus no meaning. -/
inductive Refusal where
  /-- An instruction whose arm of `exec` has no meaning yet (none in this model). Safe. -/
  | notModelled (mnemonic : String)
  /-- Raised by the step on an illegal event word (R78, R201). Safe. -/
  | illegalEventWord (dk : Key)
  /-- Raised by a meaning called in a state whose `MODE` and `TXS` dispatch the tick to another operation (R75, R172; entry 14).
  No step does so. Safe. -/
  | notSelected (dk : Key)
  /-- Raised by the step when the configuration is not admitted (R5, R239; U8, U9 of 93_implementation_defined.md; entry 18). Safe. -/
  | configNotAdmitted
  deriving DecidableEq, Repr

/-- The outcome of a step of this machine. -/
abbrev Result := Host.Outcome State Fault Refusal

/-- The machine right after reset (R40, R230, R233). `TXS`, `TXBYTE`, `TXBIT` and `STAGED` are draws there: DESIGN CHOICE
(entry 5, unsafe) they are zero. The buffer lists nothing (entry 6), no stimulus is queued and the host has read nothing. -/
def State.reset : State :=
  { cfg := Config.thisHardware
    mode := .idle
    txs := .start
    sbyte := 1
    sbit := 0
    txbyte := 0
    txbit := 0
    staged := false
    edgeIe := true
    edgeIfg := false
    tmr := .stop
    txOut := true
    buf := []
    inputs := []
    hostReads := []
    draws := 0 }

end Sys2Proof.Machine
end

