-- ==== Sys2Proof/Machine/Flags.lean ====
section
/-! DEFINITION. The status the block derives from its state: `READY` (10_state.md R33), the `STATUS` byte (R38), what a read of a
host location returns (R38, R39), and which events are enabled (60_exceptions.md R205). -/

namespace Sys2Proof.Machine

/-- `READY = (MODE == ARMED)` (R33). -/
def State.ready (s : State) : Bool := s.mode == .armed

/-- `STATUS = {TX_OUT, TMR[1:0], EDGE_IFG, EDGE_IE, READY, MODE[1:0]}` (R38). -/
def State.statusByte (s : State) : Byte :=
  BitVec.ofBool s.txOut ++ s.tmr.bits ++ BitVec.ofBool s.edgeIfg ++ BitVec.ofBool s.edgeIe ++ BitVec.ofBool s.ready ++ s.mode.bits

/-- What the host gets back from a read: the `STATUS` byte at offset 0 (R38), and 0x00 from `CMD` (R39). -/
def State.hostReadValue (s : State) : HostLoc → Byte
  | .status => s.statusByte
  | .cmd => 0x00#8

/-- `ESVC` is enabled exactly when `EDGE_IE` = 1, `EDGE_IFG` = 1 and `MODE` = IDLE (R102). -/
def State.esvcEnabled (s : State) : Bool := s.edgeIe && s.edgeIfg && s.mode == .idle

/-- `TICK` is enabled when `TMR` is SAMPLE or BIT (R205); with `TMR` = 0b11 it is not (R72). -/
def State.tickEnabled (s : State) : Bool := s.tmr == .sample || s.tmr == .bit

/-- The table of R205. -/
def State.enabled (s : State) : Evt → Bool
  | .reset => true
  | .edge => true
  | .esvc => s.esvcEnabled
  | .tick => s.tickEnabled
  | .handoff => true
  | .status => true

end Sys2Proof.Machine
end

