-- ==== Sys2Proof/Machine/Ops.lean ====
section
/-! DEFINITION. The shared operations: the sample buffer's bytes (20_memory.md R50-R59), the next stimulus and the event it is
(00_scope.md R10-R12, 10_state.md R37-R39), and the dispatch of an event to its operation (30_encoding.md R75-R79, 44_arbiter.md
R172-R174). The block has no exception entry and no return (60_exceptions.md R200, R208, R209), so none stands here. -/

namespace Sys2Proof.Machine

/-- The byte a memory holds at an index: the listed one, else what an unlisted index reads as. -/
def Memory.get (c : Config) : Memory → Nat → Byte
  | [], i => c.unlisted i
  | (j, w) :: m, i => if i = j then w else Memory.get c m i

/-- Writes a byte and keeps the canonical form: the value an unlisted index reads as is not listed. -/
def Memory.put (c : Config) : Memory → Nat → Byte → Memory
  | [], i, v => if v = c.unlisted i then [] else [(i, v)]
  | (j, w) :: m, i, v =>
    if i < j then (if v = c.unlisted i then (j, w) :: m else (i, v) :: (j, w) :: m)
    else if i = j then (if v = c.unlisted i then m else (i, v) :: m)
    else (j, w) :: Memory.put c m i v

/-- The canonical form: indices strictly rising and inside the buffer, no entry equal to what its index reads as unlisted. -/
abbrev Memory.wf (c : Config) (m : Memory) : Prop :=
  m.Pairwise (fun a b => a.1 < b.1) ∧ ∀ e ∈ m, e.1 < c.cap ∧ e.2 ≠ c.unlisted e.1

/-- The byte `BUF[i]`, for `i` < `CAP`. -/
def State.byteAt (s : State) (i : Nat) : Byte := Memory.get s.cfg s.buf i

/-- The bit `BUF[i][j]`. -/
def State.bitAt (s : State) (i j : Nat) : Bool := (s.byteAt i).getLsbD j

/-- `MemRead(i, 1)`; an index at or past `CAP` is no buffer access (R8). -/
def State.memRead (s : State) (i : Nat) : Option Byte := if i < s.cfg.cap then some (s.byteAt i) else none

/-- The buffer with `v` at index `i`. -/
def State.setByte (s : State) (i : Nat) (v : Byte) : State := { s with buf := Memory.put s.cfg s.buf i v }

/-- `MemWrite(i, 1, v)`; an index at or past `CAP` names no byte (R8). -/
def State.memWrite (s : State) (i : Nat) (v : Byte) : Option State := if i < s.cfg.cap then some (s.setByte i v) else none

/-- The event word a stimulus presents: itself; `STATUS` for a host read of offset 0; `HANDOFF` for a host write of `CMD` with
bit 0 = 1 (R38, R39, R74). A read of `CMD`, a write of `CMD` with bit 0 = 0 and a write to offset 0 are no events. -/
def Stimulus.eventWord : Stimulus → Option EventWord
  | .word ew => some ew
  | .hostRead .status => some (mkWord .status false)
  | .hostRead .cmd => none
  | .hostWrite .status _ => none
  | .hostWrite .cmd v => if v.getLsbD 0 then some (mkWord .handoff false) else none

/-- The offset of a host location relative to `HOST_BASE` (R37). -/
def hostOffset : HostLoc → Nat
  | .status => 0
  | .cmd => 1

/-- The host location an absolute address names, if any (R37). -/
def hostLocAt (a : Nat) : Option HostLoc :=
  if a = Config.hostBase + hostOffset .status then some .status
  else if a = Config.hostBase + hostOffset .cmd then some .cmd
  else none

/-- The words of the events enabled in a state (R205); a tick comes with `RX_IN` low or high (R12, R35). -/
def State.enabledWords (s : State) : List EventWord :=
  [mkWord .reset false, mkWord .edge false, mkWord .handoff false, mkWord .status false] ++
    (if s.enabled .esvc then [mkWord .esvc false] else []) ++
    (if s.enabled .tick then [mkWord .tick false, mkWord .tick true] else [])

/-- The word of a drawn event: some enabled one (R10, R12, entry 2). -/
def State.drawnWord (s : State) : EventWord :=
  s.enabledWords.getD (Config.drawEvent s.draws % s.enabledWords.length) (mkWord .edge false)

/-- The stimulus serviced next: the oldest queued one, or a drawn event when none is queued (entries 1 and 2). -/
def State.nextStimulus (s : State) : Stimulus :=
  match s.inputs with
  | st :: _ => st
  | [] => .word s.drawnWord

/-- The state with its next stimulus taken out of the queue, or with the draw of an event counted. -/
def State.taken (s : State) : State :=
  match s.inputs with
  | _ :: rest => { s with inputs := rest }
  | [] => { s with draws := s.draws + 1 }

/-- Hands a byte to the host. -/
def State.give (s : State) (v : Byte) : State := { s with hostReads := v :: s.hostReads }

/-- A host access that is no event: a read returns its byte and a write does nothing (R38, R39, R59). -/
def State.hostAccess (s : State) : Stimulus → State
  | .hostRead l => s.give (s.hostReadValue l)
  | .hostWrite _ _ => s
  | .word _ => s

/-- The dispatch key of an event in a state: the block itself supplies `MODE` and `TXS` (R75). -/
def State.key (s : State) (ew : EventWord) : Key := mkKey ew s.mode s.txs

/-- The outcome of an event whose key selects no operation (R78, R79). A tick that is not enabled has no step (T34); an enabled one
faults (R173, R174). -/
def State.stopped (s : State) (ew : EventWord) : Reject → Result
  | .illegalEventWord => .refused (.illegalEventWord (s.key ew))
  | .esvcNotIdle => .fault (.notEnabled (s.key ew))
  | .tickOutOfCycle =>
    if s.enabled .tick then .fault (.tickOutOfCycle (s.key ew)) else .fault (.notEnabled (s.key ew))
  | .reservedTxState =>
    if s.enabled .tick then .fault (.reservedTxState (s.key ew)) else .fault (.notEnabled (s.key ew))

/-- Performs an operation where the state's `MODE` and `TXS` select it (R75, R172) and its event is enabled (R205); elsewhere it
stops as the presented event does. -/
def State.serve (s : State) (i : Instr) (body : Result) : Result :=
  match decodeFields i.word s.mode s.txs with
  | .error r => s.stopped i.word r
  | .ok j =>
    if j = i then (if s.enabled i.evt then body else .fault (.notEnabled (s.key i.word)))
    else .refused (.notSelected (s.key i.word))

/-- The state with the event of a dispatch key presented next. The key's low bits are `MODE` and `TXS`, which the block itself
supplies (R75), so they are placed too; and so are the flags that enable the event: `EDGE_IE` and `EDGE_IFG` for `ESVC` (R102), and
for a `TICK` a running timer, left as it is where it already runs (R205). Entry 22. -/
def State.placeKey (s : State) (k : Key) : State :=
  let t : State := { s with mode := keyMode k, txs := keyTxs k, inputs := .word (keyWord k) :: s.inputs }
  match (keyWord k).fields with
  | some (.esvc, _) => { t with edgeIe := true, edgeIfg := true }
  | some (.tick, _) => if s.enabled .tick then t else { t with tmr := if t.mode = .transmitting then .bit else .sample }
  | some (.reset, _) => t
  | some (.edge, _) => t
  | some (.handoff, _) => t
  | some (.status, _) => t
  | none => t

end Sys2Proof.Machine
end

