-- ==== Sys2Proof/Machine/Arbiter.lean ====
section
/-! DEFINITION. The host's status read: `STATUS` (44_arbiter.md R175). -/

namespace Sys2Proof.Machine

/-- `STATUS` (R175): returns the status byte of R38 to the host; no field of the block changes. -/
def execStatus (s : State) : Result := .next (s.give s.statusByte)

end Sys2Proof.Machine
end

