-- ==== Sys2Proof/Machine/Operands.lean ====
section
/-! DEFINITION. The implicit operands of the operations (30_encoding.md R77): the bit of a byte that the sample cursor names, the
sample cursor's advance (42_sampler.md R121-R124) and the bit that the transmit cursor names (43_transmitter.md R150, R155). -/

namespace Sys2Proof.Machine

/-- `b[j] <- v`: bit `j` replaced, the other seven kept (R122). -/
def setBit (b : Byte) (j : Nat) (v : Bool) : Byte :=
  bif v then b ||| (1#8 <<< j) else b &&& ~~~ (1#8 <<< j)

/-- The byte index of the sample cursor, an index of the buffer (R23). -/
def State.sampleIndex (s : State) : Nat := s.sbyte.toNat

/-- The byte index of the transmit cursor (R25). -/
def State.txIndex (s : State) : Nat := s.txbyte.toNat

/-- The capture completes: `TMR <- STOP`, `MODE <- ARMED` (R124). -/
def State.finishCapture (s : State) : State := { s with tmr := .stop, mode := .armed }

/-- The sample cursor at a byte's first bit. -/
def State.sampleCursor (s : State) (i : BitVec 8) (j : BitVec 3) : State := { s with sbyte := i, sbit := j }

/-- The sample cursor's advance, and the completion of the capture when the byte cursor reaches `CAP` (R121, R123, R124). -/
def State.advanceSample (s : State) : State :=
  let n : BitVec 4 := s.sbit.zeroExtend 4 + 1
  if n = 8 then
    let t := s.sampleCursor (s.sbyte + 1) 0
    if t.sampleIndex = s.cfg.cap then t.finishCapture else t
  else s.sampleCursor s.sbyte (n.extractLsb' 0 3)

/-- `TXBYTE <- TXBYTE + 1`, `TXBIT <- 0`, `TXS <- STOP`: all 8 data bits of a byte have been sent (R150). -/
def State.endDataBits (s : State) : State := { s with txbyte := s.txbyte + 1, txbit := 0, txs := .stop }

/-- `STAGED <- v`. -/
def State.setStaged (s : State) (v : Bool) : State := { s with staged := v }

/-- `STAGED <- draw()` (R155). -/
def State.drawStaged (s : State) : State := { s with staged := Config.drawStaged s.draws, draws := s.draws + 1 }

/-- Stages the bit the transmit cursor names: `BUF[TXBYTE][TXBIT]` inside the buffer, a draw past its end (R150, R155). A bit index
of 8 or more names no bit of a byte (R8): DESIGN CHOICE (entry 9), a draw too; no reachable state has it (R176). -/
def State.stage (s : State) : State :=
  match s.memRead s.txIndex with
  | some b => if s.txbit.toNat < 8 then s.setStaged (b.getLsbD s.txbit.toNat) else s.drawStaged
  | none => s.drawStaged

/-- `TXBIT <- TXBIT + 1` (R150). -/
def State.nextTxBit (s : State) : State := { s with txbit := s.txbit + 1 }

/-- `TX_OUT <- v`. -/
def State.drive (s : State) (v : Bool) : State := { s with txOut := v }

/-- `TXS <- x`. -/
def State.setTxs (s : State) (x : Txs) : State := { s with txs := x }

end Sys2Proof.Machine
end

