-- ==== Sys2Proof/Machine/Arming.lean ====
section
/-! DEFINITION. Edge-triggered arming: `EDGE` and `ESVC` (41_edge_arming.md). -/

namespace Sys2Proof.Machine

/-- `EDGE_IFG <- 1` (R101). -/
def State.latchEdge (s : State) : State := { s with edgeIfg := true }

/-- `EDGE_IE <- 0`, `TMR <- SAMPLE`, `MODE <- SAMPLING` (R103); `EDGE_IFG`, the cursor and the buffer are left. -/
def State.arm (s : State) : State := { s with edgeIe := false, tmr := .sample, mode := .sampling }

/-- `EDGE` (R101): latches a falling edge, whatever `MODE` and `EDGE_IE` are. -/
def execEdge (s : State) : Result := .next s.latchEdge

/-- `ESVC` (R103), where it is enabled (R102). -/
def execEsvc (s : State) : Result := s.serve .esvc (.next s.arm)

end Sys2Proof.Machine
end

