-- ==== Sys2Proof/Machine/PowerCycle.lean ====
section
/-! DEFINITION. The power cycle: `RESET` (70_reset_and_hazards.md R230). -/

namespace Sys2Proof.Machine

/-- `for i in 1 .. k: MemWrite(i, 1, draw())`, the draw of byte `i` being `Config.drawByte n i` (R230). -/
def drawBytes (c : Config) (n : Nat) (m : Memory) : Nat → Memory
  | 0 => m
  | k + 1 => Memory.put c (drawBytes c n m k) (k + 1) (Config.drawByte n (k + 1))

/-- The fields `RESET` writes (R40, R230): `TXS`, `TXBYTE`, `TXBIT`, `STAGED` and the data bytes take free values (entry 7).
The queue, the host's bytes and the configuration are not the block's (entries 1, 4, 15). -/
def State.powerCycle (s : State) : State :=
  { s with
    mode := .idle
    sbyte := 1
    sbit := 0
    edgeIe := true
    edgeIfg := false
    tmr := .stop
    txOut := true
    buf := drawBytes s.cfg s.draws (Memory.put s.cfg s.buf 0 s.cfg.header) (s.cfg.cap - 1)
    txs := Txs.ofBits (Config.drawTxs s.draws)
    txbyte := Config.drawTxbyte s.draws
    txbit := Config.drawTxbit s.draws
    staged := Config.drawStaged s.draws
    draws := s.draws + 1 }

/-- `RESET` (R230): from any state, at any time (R207). -/
def execReset (s : State) : Result := .next s.powerCycle

end Sys2Proof.Machine
end

