-- ==== Sys2Proof/Machine/Sampler.lean ====
section
/-! DEFINITION. The periodic sampler: `TICK.SMP` (42_sampler.md). -/

namespace Sys2Proof.Machine

/-- The body of `TICK.SMP` (R121): the sampled level replaces bit `SBIT` of `BUF[SBYTE]`, then the cursor advances. An index at or
past `CAP` names no byte of the buffer (R8): a fault (entry 12), in no reachable state (R56). -/
def State.sample (s : State) (d : Bool) : Result :=
  match s.memRead s.sampleIndex with
  | none => .fault (.bufferIndex (s.key (Instr.tickSmp d).word))
  | some b =>
    match s.memWrite s.sampleIndex (setBit b s.sbit.toNat d) with
    | none => .fault (.bufferIndex (s.key (Instr.tickSmp d).word))
    | some t => .next t.advanceSample

/-- `TICK.SMP` (R120, R121). -/
def execTickSmp (d : Bool) (s : State) : Result := s.serve (.tickSmp d) (s.sample d)

end Sys2Proof.Machine
end

