-- ==== Sys2Proof/Machine/Transmitter.lean ====
section
/-! DEFINITION. The bitstream transmitter: `HANDOFF` and the three transmit ticks (43_transmitter.md). -/

namespace Sys2Proof.Machine

/-- The transmission begins (R140): transmit cursor (0, 1), `STAGED` 0, `TXS` START, `MODE` TRANSMITTING, `TMR` BIT. -/
def State.startTransmission (s : State) : State :=
  { s with txbyte := 0, txbit := 1, staged := false, txs := .start, mode := .transmitting, tmr := .bit }

/-- The cycle completes (R160): timer stopped, sample cursor (1, 0), `MODE` IDLE, the pending edge cleared, edges enabled. -/
def State.finishCycle (s : State) : State :=
  { s with tmr := .stop, sbyte := 1, sbit := 0, mode := .idle, edgeIfg := false, edgeIe := true }

/-- `HANDOFF`: in ARMED the transmission begins (R140), in any other mode nothing changes (R141). -/
def execHandoff (s : State) : Result :=
  if s.mode = .armed then .next s.startTransmission else .next s

/-- The body of `TICK.TX.START` (R145): `TX_OUT <- 0`, `TXS <- DATA`. -/
def State.sendStart (s : State) : State := (s.drive false).setTxs .data

/-- `TICK.TX.START` (R145). -/
def execTickTxStart (d : Bool) (s : State) : Result := s.serve (.tickTxStart d) (.next s.sendStart)

/-- The body of `TICK.TX.DATA` (R150): the staged bit is driven before the next one is staged (R235). -/
def State.sendData (s : State) : State :=
  let t := s.drive s.staged
  let u := if t.txbit = 8 then t.endDataBits else t
  u.stage.nextTxBit

/-- `TICK.TX.DATA` (R150, R155). -/
def execTickTxData (d : Bool) (s : State) : Result := s.serve (.tickTxData d) (.next s.sendData)

/-- The body of `TICK.TX.STOP` (R160): `TX_OUT <- 1`, `TXS <- START`, and the completion after the last byte. -/
def State.sendStop (s : State) : State :=
  let t := (s.drive true).setTxs .start
  if t.txIndex = t.cfg.cap then t.finishCycle else t

/-- `TICK.TX.STOP` (R160). -/
def execTickTxStop (d : Bool) (s : State) : Result := s.serve (.tickTxStop d) (.next s.sendStop)

end Sys2Proof.Machine
end

