-- ==== Sys2Proof/Machine/Dispatch.lean ====
section
/-! DEFINITION. One arm per operation of spec/opcode_table.json. -/

namespace Sys2Proof.Machine

def exec (i : Instr) (s : State) : Host.Outcome State Fault Refusal :=
  match i with
  | .reset => Sys2Proof.Machine.execReset s
  | .edge => Sys2Proof.Machine.execEdge s
  | .esvc => Sys2Proof.Machine.execEsvc s
  | .tickSmp d => Sys2Proof.Machine.execTickSmp d s
  | .tickTxStart d => Sys2Proof.Machine.execTickTxStart d s
  | .tickTxData d => Sys2Proof.Machine.execTickTxData d s
  | .tickTxStop d => Sys2Proof.Machine.execTickTxStop d s
  | .handoff => Sys2Proof.Machine.execHandoff s
  | .status => Sys2Proof.Machine.execStatus s

end Sys2Proof.Machine
end

