-- ==== Sys2Proof/Machine/Step.lean ====
section
/-! DEFINITION. One step of the machine: one stimulus is taken and serviced as one atomic transition (00_scope.md R10, R13), and
where the host's checks place an operation so that the next step runs it. -/

namespace Sys2Proof.Machine

/-- One step (R10, R13, R75): the next stimulus leaves the queue; an event is dispatched on its word and the state's `MODE` and `TXS`
to an operation, and a host access that is no event is performed. A configuration that R5 does not admit is refused. -/
def step (s : State) : Host.Outcome State Fault Refusal :=
  if s.cfg.wf then
    match s.nextStimulus.eventWord with
    | none => .next (s.taken.hostAccess s.nextStimulus)
    | some ew =>
      match decodeFields ew s.mode s.txs with
      | .ok i => exec i s.taken
      | .error r => s.taken.stopped ew r
  else .refused .configNotAdmitted

/-- The state with the operation of dispatch key `w` presented next (entry 22); the bits of `w` at `nbits` and above are 0. -/
def State.withFetchWord (s : State) (nbits w : Nat) : State := s.placeKey (BitVec.ofNat 8 (w % 2 ^ nbits))

end Sys2Proof.Machine
end

