-- ==== Sys2Proof/Machine/Stimuli.lean ====
section
/-! DEFINITION. The stimulus notation: the assembly lines of 30_encoding.md R82 and the pseudo-instructions of R83, as the stimuli
they are encoded as. -/

namespace Sys2Proof.Machine

/-- A tick with the level of `RX_IN` (R82: `TICK 0` is 0x6, `TICK 1` is 0x7). -/
def tick (d : Bool) : Stimulus := .word (mkWord .tick d)

/-- The lines of R82 and their event words. -/
def assemblyLines : List (String × EventWord) :=
  [("RESET", 0x0#4), ("EDGE", 0x2#4), ("ESVC", 0x4#4), ("TICK 0", 0x6#4), ("TICK 1", 0x7#4), ("TICK", 0x6#4),
   ("HANDOFF", 0x8#4), ("STATUS", 0xA#4)]

/-- A line without its comment (`;` begins one, R82) and without the spaces around it. -/
def trimLine (l : List Char) : List Char :=
  ((((l.takeWhile (fun ch => ch != ';')).dropWhile (fun ch => ch == ' ')).reverse).dropWhile (fun ch => ch == ' ')).reverse

/-- The event word of one assembly line (R82); `none` for a line that is no event. -/
def assembleLine (line : String) : Option EventWord :=
  (assemblyLines.find? (fun e => e.1.toList == trimLine line.toList)).map Prod.snd

/-- `ARM` (R83). -/
def arm : List Stimulus := [.word (mkWord .edge false), .word (mkWord .esvc false)]

/-- `SAMPLE8 v`: 8 ticks, the LSB of `v` first (R83). -/
def sample8 (v : Byte) : List Stimulus := (List.range 8).map (fun j => tick (v.getLsbD j))

/-- `CAPTURE v1, ..., vK` (R83); K = `CAP`-1 is `Config.captureWf`. -/
def capture (vs : List Byte) : List Stimulus := vs.flatMap sample8

/-- `TICKS n` (R83). -/
def ticks (n : Nat) : List Stimulus := List.replicate n (tick false)

/-- `FRAME` (R83). -/
def frameTicks : List Stimulus := ticks 10

/-- `TRANSMIT` (R83). -/
def transmit (c : Config) : List Stimulus := ticks c.transmitPeriods

/-- `REPEAT n { ... }` (R83). -/
def repeatStimuli (n : Nat) (l : List Stimulus) : List Stimulus := (List.replicate n l).flatten

end Sys2Proof.Machine
end

