-- ==== Sys2Proof/Safety.lean ====
section
/-! DEFINITION. The terms claims are stated in: the invariant of 44_arbiter.md R176, runs and their observation (00_scope.md R13, R14),
the frame of 30_encoding.md R81, the ticks a cycle still takes (R178), what no observation may depend on (10_state.md R40), and the
fairness premises of 70_reset_and_hazards.md R244. -/

namespace Sys2Proof.Machine

/-- R176, row "all": an admitted configuration, a canonical buffer that holds `HEADER` at 0, and `TMR` ≠ 0b11. -/
abbrev State.CommonInv (s : State) : Prop :=
  s.cfg.wf = true ∧ Memory.wf s.cfg s.buf ∧ s.byteAt 0 = s.cfg.header ∧ s.tmr ≠ .reserved

/-- R176, row IDLE. -/
abbrev State.IdleInv (s : State) : Prop :=
  s.tmr = .stop ∧ s.edgeIe = true ∧ s.sbyte = 1 ∧ s.sbit = 0 ∧ s.txOut = true

/-- R176, row SAMPLING (`SBIT` is in 0 .. 7 by its width). -/
abbrev State.SamplingInv (s : State) : Prop :=
  s.tmr = .sample ∧ s.edgeIe = false ∧ s.edgeIfg = true ∧ 1 ≤ s.sbyte.toNat ∧ s.sbyte.toNat ≤ s.cfg.cap - 1 ∧ s.txOut = true

/-- R176, row ARMED. -/
abbrev State.ArmedInv (s : State) : Prop :=
  s.tmr = .stop ∧ s.edgeIe = false ∧ s.edgeIfg = true ∧ s.sbyte.toNat = s.cfg.cap ∧ s.sbit = 0 ∧ s.txOut = true

/-- R176, row TRANSMITTING, `TXS` = START. -/
abbrev State.TxStartInv (s : State) : Prop :=
  s.txOut = true ∧ s.txbyte.toNat ≤ s.cfg.cap - 1 ∧ s.txbit = 1 ∧ s.staged = s.bitAt s.txbyte.toNat 0

/-- R176, row TRANSMITTING, `TXS` = DATA. -/
abbrev State.TxDataInv (s : State) : Prop :=
  s.txbyte.toNat ≤ s.cfg.cap - 1 ∧ 1 ≤ s.txbit.toNat ∧ s.txbit.toNat ≤ 8 ∧ s.staged = s.bitAt s.txbyte.toNat (s.txbit.toNat - 1)

/-- R176, row TRANSMITTING, `TXS` = STOP. -/
abbrev State.TxStopInv (s : State) : Prop :=
  1 ≤ s.txbyte.toNat ∧ s.txbyte.toNat ≤ s.cfg.cap ∧ s.txbit = 1 ∧ s.txOut = s.bitAt (s.txbyte.toNat - 1) 7 ∧
    (s.txbyte.toNat < s.cfg.cap → s.staged = s.bitAt s.txbyte.toNat 0)

/-- R176, row TRANSMITTING. -/
abbrev State.TransmittingInv (s : State) : Prop :=
  s.tmr = .bit ∧ s.edgeIe = false ∧ s.edgeIfg = true ∧ s.sbyte.toNat = s.cfg.cap ∧ s.sbit = 0 ∧ s.txs ≠ .reserved ∧
    (s.txs = .start → s.TxStartInv) ∧ (s.txs = .data → s.TxDataInv) ∧ (s.txs = .stop → s.TxStopInv)

/-- The invariant of R176. -/
abbrev State.Inv (s : State) : Prop :=
  s.CommonInv ∧ (s.mode = .idle → s.IdleInv) ∧ (s.mode = .sampling → s.SamplingInv) ∧ (s.mode = .armed → s.ArmedInv) ∧
    (s.mode = .transmitting → s.TransmittingInv)

/-- `k` steps, stopping at the first fault or refusal (R13). -/
def runSteps : Nat → State → Result
  | 0, s => .next s
  | k + 1, s =>
    match step s with
    | .next t => runSteps k t
    | .fault r => .fault r
    | .refused r => .refused r

/-- A stimulus is a `TICK` event. -/
def Stimulus.isTick (st : Stimulus) : Bool :=
  match st.eventWord with
  | none => false
  | some ew => ew.fields.map Prod.fst == some Evt.tick

/-- The level of `RX_IN` that a tick carries; `none` for any other stimulus (R73). -/
def Stimulus.level (st : Stimulus) : Option Bool :=
  match st.eventWord with
  | none => none
  | some ew =>
    match ew.fields with
    | none => none
    | some (e, d) => if e = .tick then some d else none

/-- The levels of the ticks among some stimuli, in order. -/
def levels (l : List Stimulus) : List Bool := l.filterMap Stimulus.level

/-- What may come between two ticks of a cycle besides a RESET (R244): an `EDGE`, a `HANDOFF`, a `STATUS`, or a host access that is
no event. -/
def Stimulus.isQuiet (st : Stimulus) : Bool :=
  match st.eventWord with
  | none => true
  | some ew => ew == mkWord .edge false || ew == mkWord .handoff false || ew == mkWord .status false

/-- The next step services a `TICK` while `MODE` = TRANSMITTING, so its `TX_OUT` belongs to the line trace (R14). -/
def State.servesTxTick (s : State) : Bool := s.mode == .transmitting && s.nextStimulus.isTick

/-- The line trace of `k` steps: the `TX_OUT` levels, one per `TICK` serviced while `MODE` = TRANSMITTING (R14). -/
def lineTrace : Nat → State → List Bool
  | 0, _ => []
  | k + 1, s =>
    match step s with
    | .next t => if s.servesTxTick then t.txOut :: lineTrace k t else lineTrace k t
    | .fault _ => []
    | .refused _ => []

/-- The frame of a byte: start bit 0, the data bits LSB first, stop bit 1 (R81). -/
def frame (b : Byte) : List Bool := false :: (List.range 8).map (fun j => b.getLsbD j) ++ [true]

/-- The frames of the whole buffer, in index order (R165). -/
def State.frames (s : State) : List Bool := (List.range s.cfg.cap).flatMap (fun i => frame (s.byteAt i))

/-- A line trace without its start and stop bits and without the header frame (R166). -/
def payload (l : List Bool) : List Bool :=
  ((List.range l.length).filter (fun k => decide (10 ≤ k) && k % 10 != 0 && k % 10 != 9)).map (fun k => l.getD k false)

/-- How many bits a capture in progress has written: `(SBYTE - 1) * 8 + SBIT` (R125). -/
def State.captured (s : State) : Nat := (s.sbyte.toNat - 1) * 8 + s.sbit.toNat

/-- How many ticks the cycle in progress still takes (R165, R178). -/
def State.ticksLeft (s : State) : Nat :=
  match s.mode with
  | .idle => 0
  | .sampling => s.cfg.captureBits - s.captured + s.cfg.transmitPeriods
  | .armed => s.cfg.transmitPeriods
  | .transmitting =>
    match s.txs with
    | .start => (s.cfg.cap - s.txbyte.toNat) * 10
    | .data => (s.cfg.cap - s.txbyte.toNat) * 10 - s.txbit.toNat
    | .stop => (s.cfg.cap - s.txbyte.toNat) * 10 + 1
    | .reserved => 0

/-- Two states agree on everything the rules let an observation depend on (R40): all but the draw counter, the transmitter's fields
outside TRANSMITTING, `STAGED` after the last data tick (R155), and the data bits that no tick has written (R125). -/
def State.Agree (s t : State) : Prop :=
  s.cfg = t.cfg ∧ s.mode = t.mode ∧ s.sbyte = t.sbyte ∧ s.sbit = t.sbit ∧ s.edgeIe = t.edgeIe ∧ s.edgeIfg = t.edgeIfg ∧
    s.tmr = t.tmr ∧ s.txOut = t.txOut ∧ s.inputs = t.inputs ∧ s.hostReads = t.hostReads ∧
    (s.mode = .sampling → ∀ i j, 1 ≤ i → j < 8 → (i - 1) * 8 + j < s.captured → s.bitAt i j = t.bitAt i j) ∧
    (s.mode = .armed ∨ s.mode = .transmitting → ∀ i, i < s.cfg.cap → s.byteAt i = t.byteAt i) ∧
    (s.mode = .transmitting → s.txs = t.txs ∧ s.txbyte = t.txbyte ∧ s.txbit = t.txbit ∧
      (s.txs = .stop ∧ s.txbyte.toNat = s.cfg.cap ∨ s.staged = t.staged))

/-- A state with exactly one event presented. -/
def State.present (s : State) (ew : EventWord) : State := { s with inputs := [.word ew] }

/-- An infinite run: at each point one event is presented and serviced (R10, R14). -/
def EventRun (σ : Nat → State) (ε : Nat → EventWord) : Prop :=
  ∀ n, step ((σ n).present (ε n)) = .next (σ (n + 1))

/-- Ticks are weakly fair while the timer runs (R244). -/
def FairTicks (σ : Nat → State) (ε : Nat → EventWord) : Prop :=
  ∀ n, ∃ m, n ≤ m ∧ ((σ m).enabled .tick = false ∨ (Stimulus.word (ε m)).isTick = true)

/-- `ESVC` is weakly fair while it is enabled (R244). -/
def FairEsvc (σ : Nat → State) (ε : Nat → EventWord) : Prop :=
  ∀ n, ∃ m, n ≤ m ∧ ((σ m).enabled .esvc = false ∨ ε m = mkWord .esvc false)

/-- The host's duty: while `MODE` = ARMED it issues `HANDOFF` in finite time (R234, R244). -/
def HostDuty (σ : Nat → State) (ε : Nat → EventWord) : Prop :=
  ∀ n, ∃ m, n ≤ m ∧ ((σ m).mode ≠ .armed ∨ ε m = mkWord .handoff false)

end Sys2Proof.Machine
end

