-- ==== Sys2Proof/Certificates/Slice0/Obligations.lean ====
section
/-! DEFINITION. The statements for the provers, each from the numbered rules of spec/ that its docstring names. -/

open Sys2Proof Sys2Proof.Machine

/-! ### Dispatch: what a step runs, and where it stops -/

/-- R10, R13, R75: an event is serviced by the operation its dispatch key selects, the stimulus having left the queue (the queue is the
model's, entry 1). -/
def Obligations.StepRunsSelectedOperation : Prop :=
  ∀ (s : State) (st : Stimulus) (rest : List Stimulus) (ew : EventWord) (i : Instr),
    s.cfg.wf = true → s.inputs = st :: rest → st.eventWord = some ew → decode (s.key ew) = .ok i →
      step s = exec i { s with inputs := rest }

/-- R12, R205 and the model's entry 2: with no stimulus queued, the step is the step of some event that is enabled, one draw counted. -/
def Obligations.EmptyQueueServicesAnEnabledEvent : Prop :=
  ∀ s : State, s.inputs = [] →
    ∃ (ew : EventWord) (e : Evt) (d : Bool), EventWord.fields ew = some (e, d) ∧ s.enabled e = true ∧
      step s = step { s with inputs := [.word ew], draws := s.draws + 1 }

/-- R78: the illegal event words are exactly those listed; each is refused, and the run with it. -/
def Obligations.IllegalEventWordsAreRefused : Prop :=
  (∀ ew : EventWord, EventWord.fields ew = none ↔
      ew ∈ [0xC#4, 0xD#4, 0xE#4, 0xF#4, 0x1#4, 0x3#4, 0x5#4, 0x9#4, 0xB#4]) ∧
    ∀ (s : State) (ew : EventWord) (rest : List Stimulus) (n : Nat),
      s.cfg.wf = true → s.inputs = .word ew :: rest → EventWord.fields ew = none →
        step s = .refused (.illegalEventWord (s.key ew)) ∧ runSteps (n + 1) s = .refused (.illegalEventWord (s.key ew))

/-- R173, R174, R201: an enabled tick in IDLE or ARMED, and one with the reserved transmitter sub-state, fault and record the key;
the invariant of R176 excludes both. -/
def Obligations.UnselectedTicksFault : Prop :=
  (∀ (s : State) (d : Bool) (rest : List Stimulus),
      s.cfg.wf = true → s.inputs = tick d :: rest → s.enabled .tick = true →
        (s.mode = .idle ∨ s.mode = .armed → step s = .fault (.tickOutOfCycle (s.key (mkWord .tick d)))) ∧
          (s.mode = .transmitting → s.txs = .reserved → step s = .fault (.reservedTxState (s.key (mkWord .tick d))))) ∧
    ∀ s : State, s.Inv →
      (s.mode = .idle ∨ s.mode = .armed → s.enabled .tick = false) ∧ (s.mode = .transmitting → s.txs ≠ .reserved)

/-- R102, R205 (T5, T6, T34): an event presented while it is not enabled has no step. The stop is the model's named fault (entry 10). -/
def Obligations.EventsNotEnabledHaveNoStep : Prop :=
  ∀ (s : State) (ew : EventWord) (e : Evt) (d : Bool) (rest : List Stimulus),
    s.cfg.wf = true → s.inputs = .word ew :: rest → EventWord.fields ew = some (e, d) → s.enabled e = false →
      step s = .fault (.notEnabled (s.key ew))

/-- R205: the table of enabledness. -/
def Obligations.EnabledEventsFollowTable : Prop :=
  ∀ s : State, s.enabled .reset = true ∧ s.enabled .edge = true ∧
    (s.enabled .esvc = true ↔ s.edgeIe = true ∧ s.edgeIfg = true ∧ s.mode = .idle) ∧
    (s.enabled .tick = true ↔ s.tmr = .sample ∨ s.tmr = .bit) ∧ s.enabled .handoff = true ∧ s.enabled .status = true

/-! ### Encodings -/

/-- R75, R76: encoding an operation with any don't-care bits and decoding the key gives the operation back, and every key that
decodes is the encoding of what it decodes to. -/
def Obligations.DecodeOfEncodeIsIdentity : Prop :=
  (∀ (i : Instr) (fill : Key), decode (encode i fill) = .ok i) ∧
    ∀ (k : Key) (i : Instr), decode k = .ok i → encode i k = k

/-- R75, R76: a key decodes to an operation exactly when it matches that operation's row of the opcode table, with the tick's data bit at
`DK[4]`; and no key matches two rows. -/
def Obligations.DecodeFollowsOpcodeTable : Prop :=
  (∀ (k : Key) (i : Instr), decode k = .ok i ↔
      (∃ r ∈ opcodeTable, r.matchesKey k = true ∧ r.mnemonic = i.mnemonic) ∧
        i.dataBit = (decide (i.evt = .tick) && k.getLsbD 4)) ∧
    opcodeTable.Pairwise (fun r q => ∀ k : Key, ¬ (r.matchesKey k = true ∧ q.matchesKey k = true))

/-- R76, R79: keys written out from the table, one or more per row, and keys that no row matches. -/
def Obligations.SpecKeysDecode : Prop :=
  decode 0b00001101#8 = .ok .reset ∧ decode 0b00100110#8 = .ok .edge ∧ decode 0b01000010#8 = .ok .esvc ∧
    decode 0b01100111#8 = .ok (.tickSmp false) ∧ decode 0b01110100#8 = .ok (.tickSmp true) ∧
    decode 0b01101100#8 = .ok (.tickTxStart false) ∧ decode 0b01111101#8 = .ok (.tickTxData true) ∧
    decode 0b01101110#8 = .ok (.tickTxStop false) ∧ decode 0b10001011#8 = .ok .handoff ∧ decode 0b10100100#8 = .ok .status ∧
    decode 0b01000100#8 = .error .esvcNotIdle ∧ decode 0b01101000#8 = .error .tickOutOfCycle ∧
    decode 0b01101111#8 = .error .reservedTxState ∧ decode 0b00110000#8 = .error .illegalEventWord

/-- R70, R71, R72, R74: the encodings of `MODE`, `TXS`, `TMR` and the event codes, value by value; reading back those of `MODE`,
`TXS` and the events gives the value, and the two reserved event codes name no event. -/
def Obligations.FieldEncodings : Prop :=
  (Mode.idle.bits = 0b00#2 ∧ Mode.sampling.bits = 0b01#2 ∧ Mode.armed.bits = 0b10#2 ∧ Mode.transmitting.bits = 0b11#2) ∧
    (Txs.start.bits = 0b00#2 ∧ Txs.data.bits = 0b01#2 ∧ Txs.stop.bits = 0b10#2 ∧ Txs.reserved.bits = 0b11#2) ∧
    (Tmr.stop.bits = 0b00#2 ∧ Tmr.sample.bits = 0b01#2 ∧ Tmr.bit.bits = 0b10#2 ∧ Tmr.reserved.bits = 0b11#2) ∧
    (Evt.reset.bits = 0b000#3 ∧ Evt.edge.bits = 0b001#3 ∧ Evt.esvc.bits = 0b010#3 ∧ Evt.tick.bits = 0b011#3 ∧
      Evt.handoff.bits = 0b100#3 ∧ Evt.status.bits = 0b101#3) ∧
    (∀ m : Mode, Mode.ofBits m.bits = m) ∧ (∀ x : Txs, Txs.ofBits x.bits = x) ∧ (∀ e : Evt, Evt.ofBits e.bits = some e) ∧
    Evt.ofBits 0b110#3 = none ∧ Evt.ofBits 0b111#3 = none

/-! ### The host view -/

/-- R38: the layout of `STATUS`; a host read of offset 0 returns it and changes nothing else (what the host got is
recorded in the model's field `hostReads`, entry 15); a host write to offset 0 is ignored. -/
def Obligations.StatusByteLayout : Prop :=
  (∀ s : State, s.statusByte.extractLsb' 0 2 = s.mode.bits ∧ s.statusByte.getLsbD 2 = decide (s.mode = .armed) ∧
      s.statusByte.getLsbD 3 = s.edgeIe ∧ s.statusByte.getLsbD 4 = s.edgeIfg ∧ s.statusByte.extractLsb' 5 2 = s.tmr.bits ∧
      s.statusByte.getLsbD 7 = s.txOut) ∧
    ∀ (s : State) (rest : List Stimulus), s.cfg.wf = true →
      (s.inputs = .hostRead .status :: rest →
          step s = .next { s with inputs := rest, hostReads := s.statusByte :: s.hostReads }) ∧
        ∀ v : Byte, s.inputs = .hostWrite .status v :: rest → step s = .next { s with inputs := rest }

/-- R39: a write of `CMD` with bit 0 = 1 is the event HANDOFF whatever bits [7:1] are; with bit 0 = 0 it does nothing; `CMD` reads as
0x00. -/
def Obligations.CommandLocation : Prop :=
  ∀ (s : State) (v : Byte) (rest : List Stimulus), s.cfg.wf = true →
    (s.inputs = .hostWrite .cmd v :: rest → v.getLsbD 0 = true → step s = exec .handoff { s with inputs := rest }) ∧
      (s.inputs = .hostWrite .cmd v :: rest → v.getLsbD 0 = false → step s = .next { s with inputs := rest }) ∧
      (s.inputs = .hostRead .cmd :: rest → step s = .next { s with inputs := rest, hostReads := 0x00#8 :: s.hostReads })

/-- R175: STATUS returns the byte to the host and changes nothing else, in every state; its keys, its event word, and the values after
reset and in ARMED. -/
def Obligations.StatusReturnsStatusByte : Prop :=
  (∀ s : State, exec .status s = .next { s with hostReads :=
      (BitVec.ofBool s.txOut ++ s.tmr.bits ++ BitVec.ofBool s.edgeIfg ++ BitVec.ofBool s.edgeIe ++
        BitVec.ofBool (decide (s.mode = .armed)) ++ s.mode.bits) :: s.hostReads }) ∧
    (∀ k : Key, k &&& 0xF0#8 = 0xA0#8 → decode k = .ok .status) ∧ Instr.word .status = 0xA#4 ∧
    exec .status State.reset = .next { State.reset with hostReads := [0x88#8] } ∧
    ∀ s : State, s.Inv → s.mode = .armed → exec .status s = .next { s with hostReads := 0x96#8 :: s.hostReads }

/-! ### The operations -/

/-- R101: EDGE sets `EDGE_IFG` and nothing else, in every state. -/
def Obligations.EdgeLatchesFlag : Prop :=
  ∀ s : State, exec .edge s = .next { s with edgeIfg := true } ∧ (s.edgeIfg = true → exec .edge s = .next s)

/-- R102, R103: an enabled ESVC writes `EDGE_IE`, `TMR` and `MODE` and nothing else. -/
def Obligations.EsvcArmsSampler : Prop :=
  ∀ s : State, s.edgeIe = true → s.edgeIfg = true → s.mode = .idle →
    exec .esvc s = .next { s with edgeIe := false, tmr := .sample, mode := .sampling }

/-- R121, R122: TICK.SMP replaces exactly the bit of the buffer that the sample cursor names with the sampled level; every other bit
of every byte, and every field but the cursor, `MODE` and `TMR`, is unchanged. -/
def Obligations.SampleTickWritesOneBit : Prop :=
  ∀ (s : State) (d : Bool), s.mode = .sampling → s.enabled .tick = true → s.sbyte.toNat < s.cfg.cap → Memory.wf s.cfg s.buf →
    ∃ t : State, exec (.tickSmp d) s = .next t ∧ t.bitAt s.sbyte.toNat s.sbit.toNat = d ∧
      (∀ i j : Nat, ¬ (i = s.sbyte.toNat ∧ j = s.sbit.toNat) → t.bitAt i j = s.bitAt i j) ∧
      (∀ i : Nat, i ≠ s.sbyte.toNat → t.byteAt i = s.byteAt i) ∧
      t.cfg = s.cfg ∧ t.txs = s.txs ∧ t.txbyte = s.txbyte ∧ t.txbit = s.txbit ∧ t.staged = s.staged ∧ t.edgeIe = s.edgeIe ∧
      t.edgeIfg = s.edgeIfg ∧ t.txOut = s.txOut ∧ t.inputs = s.inputs ∧ t.hostReads = s.hostReads ∧ t.draws = s.draws

/-- R121, R123, R124: the sample cursor's advance in the same tick, and the completion of the capture at `CAP`. -/
def Obligations.SampleTickAdvancesCursor : Prop :=
  ∀ (s : State) (d : Bool), s.cfg.wf = true → s.mode = .sampling → s.enabled .tick = true → s.sbyte.toNat < s.cfg.cap →
    ∃ t : State, exec (.tickSmp d) s = .next t ∧
      (s.sbit.toNat < 7 → t.sbit.toNat = s.sbit.toNat + 1 ∧ t.sbyte = s.sbyte ∧ t.mode = .sampling ∧ t.tmr = s.tmr) ∧
      (s.sbit.toNat = 7 → t.sbit = 0 ∧ t.sbyte.toNat = s.sbyte.toNat + 1 ∧
        (s.sbyte.toNat + 1 = s.cfg.cap → t.mode = .armed ∧ t.tmr = .stop) ∧
        (s.sbyte.toNat + 1 ≠ s.cfg.cap → t.mode = .sampling ∧ t.tmr = s.tmr))

/-- R145: TICK.TX.START drives the line low and goes to DATA, and touches nothing else; its keys; `D` is ignored. -/
def Obligations.StartTickDrivesLow : Prop :=
  (∀ (s : State) (d : Bool), s.mode = .transmitting → s.txs = .start → s.enabled .tick = true →
      exec (.tickTxStart d) s = .next { s with txOut := false, txs := .data }) ∧
    ∀ k : Key, k &&& 0xEF#8 = 0x6C#8 → decode k = .ok (.tickTxStart (k.getLsbD 4))

/-- R150, R235: TICK.TX.DATA drives the bit staged before, and the transmit cursor and `TXS` go on; nothing but these, `STAGED` and
the draw counter is written. -/
def Obligations.DataTickDrivesStagedBit : Prop :=
  ∀ (s : State) (d : Bool), s.mode = .transmitting → s.txs = .data → s.enabled .tick = true →
    ∃ t : State, exec (.tickTxData d) s = .next t ∧ t.txOut = s.staged ∧
      (s.txbit = 8 → t.txbyte = s.txbyte + 1 ∧ t.txbit = 1 ∧ t.txs = .stop) ∧
      (s.txbit ≠ 8 → t.txbyte = s.txbyte ∧ t.txbit = s.txbit + 1 ∧ t.txs = .data) ∧
      (∀ i : Nat, t.byteAt i = s.byteAt i) ∧ t.buf = s.buf ∧ t.cfg = s.cfg ∧ t.mode = s.mode ∧ t.sbyte = s.sbyte ∧
      t.sbit = s.sbit ∧ t.edgeIe = s.edgeIe ∧ t.edgeIfg = s.edgeIfg ∧ t.tmr = s.tmr ∧ t.inputs = s.inputs ∧
      t.hostReads = s.hostReads

/-- R150, R155: what TICK.TX.DATA stages: the next bit of the byte, or bit 0 of the next byte; past the last byte a draw, which the
following tick, a completing TICK.TX.STOP, does not drive. -/
def Obligations.DataTickStagesNextBit : Prop :=
  ∀ (s : State) (d : Bool), s.cfg.wf = true → s.mode = .transmitting → s.txs = .data → s.enabled .tick = true →
    ∃ t : State, exec (.tickTxData d) s = .next t ∧
      (s.txbyte.toNat < s.cfg.cap → s.txbit.toNat < 8 →
        t.staged = s.bitAt s.txbyte.toNat s.txbit.toNat ∧ t.draws = s.draws) ∧
      (s.txbyte.toNat + 1 < s.cfg.cap → s.txbit = 8 → t.staged = s.bitAt (s.txbyte.toNat + 1) 0 ∧ t.draws = s.draws) ∧
      (s.txbyte.toNat + 1 = s.cfg.cap → s.txbit = 8 →
        t.staged = Config.drawStaged s.draws ∧ t.draws = s.draws + 1 ∧
          ∀ d' : Bool, ∃ u : State, exec (.tickTxStop d') t = .next u ∧ u.txOut = true ∧ u.mode = .idle)

/-- R160, R161: TICK.TX.STOP drives the line high and goes to START; after the last byte the cycle completes in the same step. -/
def Obligations.StopTickEndsFrame : Prop :=
  ∀ (s : State) (d : Bool), s.mode = .transmitting → s.txs = .stop → s.enabled .tick = true →
    (s.txbyte.toNat ≠ s.cfg.cap → exec (.tickTxStop d) s = .next { s with txOut := true, txs := .start }) ∧
      (s.txbyte.toNat = s.cfg.cap →
        ∃ t : State, exec (.tickTxStop d) s = .next t ∧
          t = { s with txOut := true, txs := .start, tmr := .stop, sbyte := 1, sbit := 0, mode := .idle, edgeIfg := false,
                       edgeIe := true } ∧
          t.statusByte = 0x88#8)

/-- R140: HANDOFF in ARMED begins the transmission and touches nothing else. -/
def Obligations.HandoffStartsTransmission : Prop :=
  ∀ s : State, s.mode = .armed →
    exec .handoff s = .next { s with txbyte := 0, txbit := 1, staged := false, txs := .start, mode := .transmitting, tmr := .bit }

/-- R141: HANDOFF in any other mode changes nothing, and the host may issue it in every state. -/
def Obligations.HandoffElsewhereIsIgnored : Prop :=
  ∀ s : State, s.enabled .handoff = true ∧ (s.mode ≠ .armed → exec .handoff s = .next s)

/-- R40, R207, R230: RESET completes in every state with a canonical buffer and leaves the reset values; what it draws stays free (the
statement names the draws and rests on no value of them; entry 7). The configuration and the model's own queue and host bytes stay. -/
def Obligations.ResetEventLeavesResetValues : Prop :=
  ∀ s : State, s.cfg.wf = true → Memory.wf s.cfg s.buf →
    ∃ t : State, exec .reset s = .next t ∧ t.mode = .idle ∧ t.sbyte = 1 ∧ t.sbit = 0 ∧ t.edgeIe = true ∧ t.edgeIfg = false ∧
      t.tmr = .stop ∧ t.txOut = true ∧ t.byteAt 0 = s.cfg.header ∧ t.statusByte = 0x88#8 ∧
      (∀ i : Nat, 1 ≤ i → i < s.cfg.cap → t.byteAt i = Config.drawByte s.draws i) ∧
      t.txs = Txs.ofBits (Config.drawTxs s.draws) ∧ t.txbyte = Config.drawTxbyte s.draws ∧
      t.txbit = Config.drawTxbit s.draws ∧ t.staged = Config.drawStaged s.draws ∧ t.draws = s.draws + 1 ∧
      t.cfg = s.cfg ∧ t.inputs = s.inputs ∧ t.hostReads = s.hostReads

/-- R40, R5, R233: the values the spec gives for the state after reset, on this hardware's configuration, whose numbers the spec
calls unaudited (entry 4). -/
def Obligations.ResetStateHoldsResetValues : Prop :=
  State.reset.mode = .idle ∧ State.reset.sbyte = 1 ∧ State.reset.sbit = 0 ∧ State.reset.edgeIe = true ∧
    State.reset.edgeIfg = false ∧ State.reset.tmr = .stop ∧ State.reset.txOut = true ∧ State.reset.byteAt 0 = 0x20#8 ∧
    State.reset.cfg.cap = 201 ∧ State.reset.cfg.wf = true ∧ State.reset.statusByte = 0x88#8

/-! ### Frames and whole-machine rules -/

/-- R50, R60: EDGE, ESVC, the transmit ticks, HANDOFF and STATUS store nothing: every byte of the buffer reads as before. The queue and
the configuration are not theirs either. -/
def Obligations.NonStoringOperationsKeepBuffer : Prop :=
  ∀ (i : Instr) (s t : State), i ≠ .reset → (∀ d : Bool, i ≠ .tickSmp d) → exec i s = .next t →
    (∀ a : Nat, t.byteAt a = s.byteAt a ∧ t.memRead a = s.memRead a) ∧ t.cfg = s.cfg ∧ t.inputs = s.inputs

/-- R50, R60, R61: a step changes a byte only if it services a sampling tick, at the byte the cursor names, or a RESET. -/
def Obligations.OnlySamplingTicksAndResetWriteBuffer : Prop :=
  ∀ (s t : State) (a : Nat), step s = .next t → t.byteAt a ≠ s.byteAt a →
    (s.mode = .sampling ∧ s.nextStimulus.isTick = true ∧ a = s.sbyte.toNat) ∨
      s.nextStimulus.eventWord = some (mkWord .reset false)

/-- R51, R126: the header byte is never modified: not by the sampler, nor by any step, in a state of the invariant. -/
def Obligations.HeaderIsNeverModified : Prop :=
  (∀ (s t : State) (d : Bool), s.Inv → exec (.tickSmp d) s = .next t → t.byteAt 0 = s.byteAt 0) ∧
    ∀ s t : State, s.Inv → step s = .next t → t.byteAt 0 = s.byteAt 0

/-- R60: only TICK.TX.DATA reads the buffer: every other operation does to the other fields the same whatever the buffer holds. -/
def Obligations.OnlyDataTicksReadBuffer : Prop :=
  ∀ (i : Instr) (s t : State) (m : Memory), (∀ d : Bool, i ≠ .tickTxData d) → exec i s = .next t →
    ∃ m' : Memory, exec i { s with buf := m } = .next { t with buf := m' }

/-- R176 at the state after reset. -/
def Obligations.ResetStateSatisfiesInvariant : Prop := State.reset.Inv

/-- R176: every step keeps the invariant. -/
def Obligations.EveryStepKeepsInvariant : Prop :=
  ∀ s t : State, s.Inv → step s = .next t → t.Inv

/-- R176: a state that a run reaches from a RESET, serviced in any state with an admitted configuration and a canonical buffer, satisfies
the invariant, and the rule's consequences: no edge service outside IDLE, no timer outside the two roles, no fault of R173 or R174. -/
def Obligations.ReachableStatesSatisfyInvariant : Prop :=
  ∀ (s r t : State) (k : Nat), s.cfg.wf = true → Memory.wf s.cfg s.buf → exec .reset s = .next r → runSteps k r = .next t →
    t.Inv ∧ (t.edgeIe = true → t.mode = .idle) ∧ (t.tmr ≠ .stop → t.mode = .sampling ∨ t.mode = .transmitting) ∧
      ∀ dk : Key, step t ≠ .fault (.reservedTxState dk) ∧ step t ≠ .fault (.tickOutOfCycle dk)

/-- The buffer's canonical form (the model's representation of R32, R50, entry 6) is kept by every step, from any state that has it. -/
def Obligations.EveryStepKeepsCanonicalBuffer : Prop :=
  ∀ s t : State, Memory.wf s.cfg s.buf → step s = .next t → Memory.wf t.cfg t.buf

/-- R170: `MODE` changes only along the five rows of the table, with their side effects. -/
def Obligations.ModeChangesFollowTable : Prop :=
  ∀ s t : State, step s = .next t → t.mode ≠ s.mode →
    (s.mode = .idle ∧ s.nextStimulus.eventWord = some (mkWord .esvc false) ∧ t.mode = .sampling ∧ t.edgeIe = false ∧
        t.tmr = .sample) ∨
      (s.mode = .sampling ∧ s.nextStimulus.isTick = true ∧ s.sbit = 7 ∧ (s.sbyte + 1).toNat = s.cfg.cap ∧ t.mode = .armed ∧
        t.tmr = .stop ∧ t.ready = true) ∨
      (s.mode = .armed ∧ s.nextStimulus.eventWord = some (mkWord .handoff false) ∧ t.mode = .transmitting ∧ t.tmr = .bit ∧
        t.ready = false) ∨
      (s.mode = .transmitting ∧ s.nextStimulus.isTick = true ∧ s.txs = .stop ∧ s.txbyte.toNat = s.cfg.cap ∧ t.mode = .idle ∧
        t.tmr = .stop ∧ t.edgeIfg = false ∧ t.edgeIe = true) ∨
      (s.nextStimulus.eventWord = some (mkWord .reset false) ∧ t.mode = .idle ∧ t.tmr = .stop ∧ t.edgeIfg = false ∧
        t.edgeIe = true ∧ t.sbyte = 1 ∧ t.sbit = 0 ∧ t.txOut = true)

/-- R177, R30, R212: one role and one tick rate at a time: `TMR` is SAMPLE exactly while SAMPLING and BIT exactly while TRANSMITTING,
and a tick drives the sampler only in SAMPLING and the transmitter only in TRANSMITTING. -/
def Obligations.OneRoleAtATime : Prop :=
  (∀ s : State, s.Inv → (s.tmr = .sample ↔ s.mode = .sampling) ∧ (s.tmr = .bit ↔ s.mode = .transmitting) ∧
      (s.cfg.tickHz s.tmr = none ↔ s.mode = .idle ∨ s.mode = .armed)) ∧
    ∀ (d : Bool) (m : Mode) (x : Txs) (i : Instr), decodeTick d m x = .ok i →
      ((∃ d', i = .tickSmp d') ∧ m = .sampling) ∨
        (((∃ d', i = .tickTxStart d') ∨ (∃ d', i = .tickTxData d') ∨ ∃ d', i = .tickTxStop d') ∧ m = .transmitting)

/-- R13, R176: in a state of the invariant every enabled event and every host access gives a next state: no fault is reached. -/
def Obligations.EnabledEventsNeverFault : Prop :=
  ∀ s : State, s.Inv →
    (∀ ew : EventWord, s.nextStimulus.eventWord = some ew →
      ∃ (e : Evt) (d : Bool), EventWord.fields ew = some (e, d) ∧ s.enabled e = true) →
    ∃ t : State, step s = .next t

/-- R104, R105: edges during a cycle write `EDGE_IFG` alone, however many come, and the completing tick clears it. -/
def Obligations.EdgesDuringCycleAreIgnored : Prop :=
  (∀ (n : Nat) (s : State) (rest : List Stimulus), s.cfg.wf = true → s.mode ≠ .idle →
      s.inputs = List.replicate n (.word (mkWord .edge false)) ++ rest →
        runSteps n s = .next { s with edgeIfg := s.edgeIfg || decide (0 < n), inputs := rest }) ∧
    ∀ (s t : State) (d : Bool), exec (.tickTxStop d) s = .next t → s.txbyte.toNat = s.cfg.cap → t.edgeIfg = false

/-- R206: in a state of the invariant an EDGE commutes with every other enabled event but RESET, STATUS and the completing
TICK.TX.STOP. -/
def Obligations.EdgeCommutesWithOtherEvents : Prop :=
  ∀ (s : State) (ew : EventWord) (e : Evt) (d : Bool) (rest : List Stimulus), s.Inv → EventWord.fields ew = some (e, d) →
    s.enabled e = true → e ≠ .reset → e ≠ .status →
    ¬ (e = .tick ∧ s.mode = .transmitting ∧ s.txs = .stop ∧ s.txbyte.toNat = s.cfg.cap) →
    runSteps 2 { s with inputs := .word (mkWord .edge false) :: .word ew :: rest } =
      runSteps 2 { s with inputs := .word ew :: .word (mkWord .edge false) :: rest }

/-- R161, R206 (T35, T36): an edge before the completing tick is cleared by it; an edge after it is latched and enables ESVC. -/
def Obligations.EdgeRacesCompletion : Prop :=
  ∀ (s : State) (d : Bool) (rest : List Stimulus), s.Inv → s.mode = .transmitting → s.txs = .stop → s.txbyte.toNat = s.cfg.cap →
    (∃ t : State, runSteps 2 { s with inputs := .word (mkWord .edge false) :: tick d :: rest } = .next t ∧ t.mode = .idle ∧
        t.edgeIfg = false ∧ t.enabled .esvc = false ∧ t.statusByte = 0x88#8) ∧
      ∃ t : State, runSteps 2 { s with inputs := tick d :: .word (mkWord .edge false) :: rest } = .next t ∧ t.mode = .idle ∧
        t.edgeIfg = true ∧ t.enabled .esvc = true ∧ t.statusByte = 0x98#8

/-- R206's closing claim, that every pair of distinct enabled events outside its three exceptions commutes. Expected to FAIL: a HANDOFF
before the completing TICK.SMP is ignored (R141), after it it starts the transmission (R140); entry 24. -/
def Obligations.EveryOtherEnabledPairCommutes : Prop :=
  ∀ (s : State) (ew ew' : EventWord) (e e' : Evt) (d d' : Bool) (rest : List Stimulus), s.Inv →
    EventWord.fields ew = some (e, d) → EventWord.fields ew' = some (e', d') → s.enabled e = true → s.enabled e' = true →
    e ≠ e' → e ≠ .reset → e' ≠ .reset → e ≠ .status → e' ≠ .status →
    ¬ ((e = .edge ∨ e' = .edge) ∧ s.mode = .transmitting ∧ s.txs = .stop ∧ s.txbyte.toNat = s.cfg.cap) →
    runSteps 2 { s with inputs := .word ew :: .word ew' :: rest } = runSteps 2 { s with inputs := .word ew' :: .word ew :: rest }

/-- R206 without the one pair of entry 24: in a state of the invariant every two distinct enabled events give the same next state in
either order, RESET and STATUS apart, and a tick apart where it completes a transmission beside an EDGE (the rule's first exception) or
a capture beside a HANDOFF (entry 24). -/
def Obligations.EnabledPairsCommuteOutsideExceptions : Prop :=
  ∀ (s : State) (ew ew' : EventWord) (e e' : Evt) (d d' : Bool) (rest : List Stimulus), s.Inv →
    EventWord.fields ew = some (e, d) → EventWord.fields ew' = some (e', d') → s.enabled e = true → s.enabled e' = true →
    e ≠ e' → e ≠ .reset → e' ≠ .reset → e ≠ .status → e' ≠ .status →
    ¬ ((e = .edge ∧ e' = .tick ∨ e = .tick ∧ e' = .edge) ∧ s.mode = .transmitting ∧ s.txs = .stop ∧
        s.txbyte.toNat = s.cfg.cap) →
    ¬ ((e = .handoff ∧ e' = .tick ∨ e = .tick ∧ e' = .handoff) ∧ s.mode = .sampling ∧ s.sbit = 7 ∧
        s.sbyte.toNat + 1 = s.cfg.cap) →
    ∃ t : State, runSteps 2 { s with inputs := .word ew :: .word ew' :: rest } = .next t ∧
      runSteps 2 { s with inputs := .word ew' :: .word ew :: rest } = .next t

/-- R121, R140, R141, R205, the pair of entry 24: a HANDOFF before the tick that completes a capture is ignored and the block waits in
ARMED; after that tick it starts the transmission. -/
def Obligations.HandoffRacesCaptureCompletion : Prop :=
  ∀ (s : State) (d : Bool) (rest : List Stimulus), s.Inv → s.mode = .sampling → s.sbit = 7 → s.sbyte.toNat + 1 = s.cfg.cap →
    (∃ t : State, runSteps 2 { s with inputs := .word (mkWord .handoff false) :: tick d :: rest } = .next t ∧ t.mode = .armed ∧
        t.tmr = .stop ∧ t.statusByte = 0x96#8) ∧
      ∃ t : State, runSteps 2 { s with inputs := tick d :: .word (mkWord .handoff false) :: rest } = .next t ∧
        t.mode = .transmitting ∧ t.txs = .start ∧ t.tmr = .bit ∧ t.statusByte = 0xD3#8

/-! ### Captures, transmissions, cycles -/

/-- R53, R125: a capture is exactly (CAP-1)*8 sampling ticks, whatever edges, hand-offs and host accesses come between them; during it
the number of bits written is (SBYTE-1)*8 + SBIT; its n-th sample is bit n mod 8 of byte 1 + n div 8; the header stays. -/
def Obligations.CaptureStoresSamples : Prop :=
  ∀ (s : State) (l : List Stimulus) (d : Bool) (rest : List Stimulus), s.Inv → s.mode = .sampling → s.sbyte = 1 → s.sbit = 0 →
    (∀ st ∈ l, st.isTick = true ∨ st.isQuiet = true) → (levels l).length + 1 = (s.cfg.cap - 1) * 8 →
    s.inputs = l ++ tick d :: rest →
    (∃ t : State, runSteps (l.length + 1) s = .next t ∧ t.mode = .armed ∧ t.tmr = .stop ∧ t.sbyte.toNat = s.cfg.cap ∧
        t.sbit = 0 ∧ t.statusByte = 0x96#8 ∧ t.inputs = rest ∧ t.byteAt 0 = s.byteAt 0 ∧
        ∀ n : Nat, n < (s.cfg.cap - 1) * 8 → t.bitAt (1 + n / 8) (n % 8) = (levels l ++ [d]).getD n false) ∧
      ∀ k : Nat, k ≤ l.length → ∃ u : State, runSteps k s = .next u ∧ u.mode = .sampling ∧
        (u.sbyte.toNat - 1) * 8 + u.sbit.toNat = (levels (l.take k)).length

/-- R165: from HANDOFF to completion exactly CAP*10 ticks are serviced, whatever their data bits and whatever edges, hand-offs and host
accesses come between them; the line trace is the frames of the buffer's bytes in index order. -/
def Obligations.TransmissionEmitsFrames : Prop :=
  ∀ (s : State) (h : Stimulus) (l : List Stimulus) (d : Bool) (rest : List Stimulus), s.Inv → s.mode = .armed →
    h.eventWord = some (mkWord .handoff false) → (∀ st ∈ l, st.isTick = true ∨ st.isQuiet = true) →
    (levels l).length + 1 = s.cfg.cap * 10 → s.inputs = h :: l ++ tick d :: rest →
    (∃ t : State, runSteps (l.length + 2) s = .next t ∧ t.mode = .idle ∧ t.inputs = rest ∧ t.statusByte = 0x88#8) ∧
      lineTrace (l.length + 2) s =
        (List.range s.cfg.cap).flatMap (fun i => false :: (List.range 8).map (fun j => s.bitAt i j) ++ [true]) ∧
      ∀ k : Nat, k ≤ l.length → ∃ u : State, runSteps (k + 1) s = .next u ∧ u.mode = .transmitting

/-- R166: the data bits of the transmission after a capture, its start and stop bits and header frame dropped, are the samples in
order, whatever edges, hand-offs out of place and host accesses come between the ticks. -/
def Obligations.CaptureTransmissionRoundTrip : Prop :=
  ∀ (s : State) (l m : List Stimulus) (h : Stimulus) (l' : List Stimulus) (d d' : Bool) (rest : List Stimulus),
    s.Inv → s.mode = .sampling → s.sbyte = 1 → s.sbit = 0 →
    (∀ st ∈ l, st.isTick = true ∨ st.isQuiet = true) → (levels l).length + 1 = (s.cfg.cap - 1) * 8 →
    (∀ st ∈ m, st.isQuiet = true ∧ st.eventWord ≠ some (mkWord .handoff false)) →
    h.eventWord = some (mkWord .handoff false) →
    (∀ st ∈ l', st.isTick = true ∨ st.isQuiet = true) → (levels l').length + 1 = s.cfg.cap * 10 →
    s.inputs = l ++ tick d :: m ++ h :: l' ++ tick d' :: rest →
    (∃ t : State, runSteps (l.length + 1 + m.length + (l'.length + 2)) s = .next t ∧ t.mode = .idle ∧ t.inputs = rest) ∧
      payload (lineTrace (l.length + 1 + m.length + (l'.length + 2)) s) = levels l ++ [d]

/-- R83: after ARM from IDLE, CAPTURE v1..vK leaves `BUF[i]` = vi. -/
def Obligations.CaptureOfBytesFillsBuffer : Prop :=
  ∀ (s : State) (vs : List Byte) (rest : List Stimulus), s.Inv → s.mode = .idle → s.cfg.captureWf vs = true →
    s.inputs = arm ++ capture vs ++ rest →
    ∃ t : State, runSteps (2 + 8 * vs.length) s = .next t ∧ t.mode = .armed ∧ t.inputs = rest ∧
      ∀ i : Nat, i < vs.length → t.byteAt (i + 1) = vs.getD i 0

/-- R178, R125, R165: `ticksLeft` counts the ticks of a cycle exactly: a cycle begins with (CAP-1)*8 + 10*CAP of them, every tick takes
one, no other event but RESET takes any, and none are left exactly in IDLE. -/
def Obligations.TicksOfACycleCountDown : Prop :=
  ∀ s t : State, s.Inv → step s = .next t →
    (s.ticksLeft = 0 ↔ s.mode = .idle) ∧ (s.nextStimulus.isTick = true → t.ticksLeft + 1 = s.ticksLeft) ∧
      (s.nextStimulus.eventWord = some (mkWord .esvc false) →
        s.ticksLeft = 0 ∧ t.ticksLeft = (s.cfg.cap - 1) * 8 + 10 * s.cfg.cap) ∧
      (s.nextStimulus.eventWord = some (mkWord .reset false) → t.ticksLeft = 0) ∧
      (s.nextStimulus.isTick = false → s.nextStimulus.eventWord ≠ some (mkWord .esvc false) →
        s.nextStimulus.eventWord ≠ some (mkWord .reset false) → t.ticksLeft = s.ticksLeft)

/-- R178, R244, R234: with fair ticks and a host that hands off, every cycle ends. -/
def Obligations.FairCyclesEnd : Prop :=
  ∀ (σ : Nat → State) (ε : Nat → EventWord), (σ 0).Inv → EventRun σ ε → FairTicks σ ε → HostDuty σ ε →
    ∀ n : Nat, ∃ m : Nat, n ≤ m ∧ (σ m).mode = .idle

/-- R40 ("no observation may depend on it"), R155: two states that agree on all but the draws give, on the same queued stimulus, next states
that agree again, so their `TX_OUT`, their `STATUS` and what the host has read are equal. -/
def Obligations.ObservationsDoNotDependOnDraws : Prop :=
  ∀ s s' t : State, s.Inv → s'.Inv → s.Agree s' → s.inputs ≠ [] → step s = .next t →
    ∃ t' : State, step s' = .next t' ∧ t.Agree t' ∧ t.txOut = t'.txOut ∧ t.statusByte = t'.statusByte ∧
      t.hostReads = t'.hostReads

/-- R5, R42, R239: no step changes the configuration; one that R5 does not admit is refused (U8, U9). -/
def Obligations.ConfigurationIsFixedAndAdmitted : Prop :=
  (∀ s t : State, step s = .next t → t.cfg = s.cfg) ∧
    (∀ s : State, s.cfg.wf = false → step s = .refused .configNotAdmitted) ∧
    ∀ c : Config, c.wf = true ↔ 2 ≤ c.cap ∧ c.cap ≤ 255 ∧ c.header.getLsbD 0 = false

/-- R61, R234: an access of the host never changes the buffer, and every access but a HANDOFF in ARMED, whatever the mode, changes no
field of the block at all. -/
def Obligations.HostWritesStateOnlyAtHandoff : Prop :=
  ∀ (s t : State) (st : Stimulus) (rest : List Stimulus),
    ((∃ l, st = .hostRead l) ∨ (∃ l v, st = .hostWrite l v) ∨ st = .word (mkWord .handoff false) ∨
      st = .word (mkWord .status false)) → s.inputs = st :: rest → step s = .next t →
    t.buf = s.buf ∧ (∀ a : Nat, t.byteAt a = s.byteAt a) ∧
      (s.mode ≠ .armed ∨ st.eventWord ≠ some (mkWord .handoff false) →
        t = { s with inputs := rest, hostReads := t.hostReads })

/-- R31: `TX_OUT` holds its value but for the ticks serviced while TRANSMITTING and RESET. -/
def Obligations.OutputLevelHoldsBetweenTicks : Prop :=
  ∀ s t : State, step s = .next t → t.txOut ≠ s.txOut →
    (s.mode = .transmitting ∧ s.nextStimulus.isTick = true) ∨ s.nextStimulus.eventWord = some (mkWord .reset false)

/-- R76: while TRANSMITTING the result of a tick does not depend on `D`. -/
def Obligations.DataBitIgnoredWhileTransmitting : Prop :=
  ∀ (s : State) (rest : List Stimulus), s.Inv → s.mode = .transmitting →
    step { s with inputs := tick false :: rest } = step { s with inputs := tick true :: rest }
end

