-- ==== Sys2Proof/Laws/State.lean ====
section
/-! SUPPORT. One lemma per field per named update of the state, so that no proof unfolds a record update. -/

namespace Sys2Proof.Machine

@[simp] theorem State.latchEdge_cfg (s : State) : s.latchEdge.cfg = s.cfg := rfl
@[simp] theorem State.latchEdge_mode (s : State) : s.latchEdge.mode = s.mode := rfl
@[simp] theorem State.latchEdge_txs (s : State) : s.latchEdge.txs = s.txs := rfl
@[simp] theorem State.latchEdge_sbyte (s : State) : s.latchEdge.sbyte = s.sbyte := rfl
@[simp] theorem State.latchEdge_sbit (s : State) : s.latchEdge.sbit = s.sbit := rfl
@[simp] theorem State.latchEdge_txbyte (s : State) : s.latchEdge.txbyte = s.txbyte := rfl
@[simp] theorem State.latchEdge_txbit (s : State) : s.latchEdge.txbit = s.txbit := rfl
@[simp] theorem State.latchEdge_staged (s : State) : s.latchEdge.staged = s.staged := rfl
@[simp] theorem State.latchEdge_edgeIe (s : State) : s.latchEdge.edgeIe = s.edgeIe := rfl
@[simp] theorem State.latchEdge_edgeIfg (s : State) : s.latchEdge.edgeIfg = true := rfl
@[simp] theorem State.latchEdge_tmr (s : State) : s.latchEdge.tmr = s.tmr := rfl
@[simp] theorem State.latchEdge_txOut (s : State) : s.latchEdge.txOut = s.txOut := rfl
@[simp] theorem State.latchEdge_buf (s : State) : s.latchEdge.buf = s.buf := rfl
@[simp] theorem State.latchEdge_inputs (s : State) : s.latchEdge.inputs = s.inputs := rfl
@[simp] theorem State.latchEdge_hostReads (s : State) : s.latchEdge.hostReads = s.hostReads := rfl
@[simp] theorem State.latchEdge_draws (s : State) : s.latchEdge.draws = s.draws := rfl

@[simp] theorem State.arm_cfg (s : State) : s.arm.cfg = s.cfg := rfl
@[simp] theorem State.arm_mode (s : State) : s.arm.mode = Mode.sampling := rfl
@[simp] theorem State.arm_txs (s : State) : s.arm.txs = s.txs := rfl
@[simp] theorem State.arm_sbyte (s : State) : s.arm.sbyte = s.sbyte := rfl
@[simp] theorem State.arm_sbit (s : State) : s.arm.sbit = s.sbit := rfl
@[simp] theorem State.arm_txbyte (s : State) : s.arm.txbyte = s.txbyte := rfl
@[simp] theorem State.arm_txbit (s : State) : s.arm.txbit = s.txbit := rfl
@[simp] theorem State.arm_staged (s : State) : s.arm.staged = s.staged := rfl
@[simp] theorem State.arm_edgeIe (s : State) : s.arm.edgeIe = false := rfl
@[simp] theorem State.arm_edgeIfg (s : State) : s.arm.edgeIfg = s.edgeIfg := rfl
@[simp] theorem State.arm_tmr (s : State) : s.arm.tmr = Tmr.sample := rfl
@[simp] theorem State.arm_txOut (s : State) : s.arm.txOut = s.txOut := rfl
@[simp] theorem State.arm_buf (s : State) : s.arm.buf = s.buf := rfl
@[simp] theorem State.arm_inputs (s : State) : s.arm.inputs = s.inputs := rfl
@[simp] theorem State.arm_hostReads (s : State) : s.arm.hostReads = s.hostReads := rfl
@[simp] theorem State.arm_draws (s : State) : s.arm.draws = s.draws := rfl

@[simp] theorem State.give_cfg (s : State) (v : Byte) : (s.give v).cfg = s.cfg := rfl
@[simp] theorem State.give_mode (s : State) (v : Byte) : (s.give v).mode = s.mode := rfl
@[simp] theorem State.give_txs (s : State) (v : Byte) : (s.give v).txs = s.txs := rfl
@[simp] theorem State.give_sbyte (s : State) (v : Byte) : (s.give v).sbyte = s.sbyte := rfl
@[simp] theorem State.give_sbit (s : State) (v : Byte) : (s.give v).sbit = s.sbit := rfl
@[simp] theorem State.give_txbyte (s : State) (v : Byte) : (s.give v).txbyte = s.txbyte := rfl
@[simp] theorem State.give_txbit (s : State) (v : Byte) : (s.give v).txbit = s.txbit := rfl
@[simp] theorem State.give_staged (s : State) (v : Byte) : (s.give v).staged = s.staged := rfl
@[simp] theorem State.give_edgeIe (s : State) (v : Byte) : (s.give v).edgeIe = s.edgeIe := rfl
@[simp] theorem State.give_edgeIfg (s : State) (v : Byte) : (s.give v).edgeIfg = s.edgeIfg := rfl
@[simp] theorem State.give_tmr (s : State) (v : Byte) : (s.give v).tmr = s.tmr := rfl
@[simp] theorem State.give_txOut (s : State) (v : Byte) : (s.give v).txOut = s.txOut := rfl
@[simp] theorem State.give_buf (s : State) (v : Byte) : (s.give v).buf = s.buf := rfl
@[simp] theorem State.give_inputs (s : State) (v : Byte) : (s.give v).inputs = s.inputs := rfl
@[simp] theorem State.give_hostReads (s : State) (v : Byte) : (s.give v).hostReads = v :: s.hostReads := rfl
@[simp] theorem State.give_draws (s : State) (v : Byte) : (s.give v).draws = s.draws := rfl

@[simp] theorem State.setByte_cfg (s : State) (i : Nat) (v : Byte) : (s.setByte i v).cfg = s.cfg := rfl
@[simp] theorem State.setByte_mode (s : State) (i : Nat) (v : Byte) : (s.setByte i v).mode = s.mode := rfl
@[simp] theorem State.setByte_txs (s : State) (i : Nat) (v : Byte) : (s.setByte i v).txs = s.txs := rfl
@[simp] theorem State.setByte_sbyte (s : State) (i : Nat) (v : Byte) : (s.setByte i v).sbyte = s.sbyte := rfl
@[simp] theorem State.setByte_sbit (s : State) (i : Nat) (v : Byte) : (s.setByte i v).sbit = s.sbit := rfl
@[simp] theorem State.setByte_txbyte (s : State) (i : Nat) (v : Byte) : (s.setByte i v).txbyte = s.txbyte := rfl
@[simp] theorem State.setByte_txbit (s : State) (i : Nat) (v : Byte) : (s.setByte i v).txbit = s.txbit := rfl
@[simp] theorem State.setByte_staged (s : State) (i : Nat) (v : Byte) : (s.setByte i v).staged = s.staged := rfl
@[simp] theorem State.setByte_edgeIe (s : State) (i : Nat) (v : Byte) : (s.setByte i v).edgeIe = s.edgeIe := rfl
@[simp] theorem State.setByte_edgeIfg (s : State) (i : Nat) (v : Byte) : (s.setByte i v).edgeIfg = s.edgeIfg := rfl
@[simp] theorem State.setByte_tmr (s : State) (i : Nat) (v : Byte) : (s.setByte i v).tmr = s.tmr := rfl
@[simp] theorem State.setByte_txOut (s : State) (i : Nat) (v : Byte) : (s.setByte i v).txOut = s.txOut := rfl
@[simp] theorem State.setByte_buf (s : State) (i : Nat) (v : Byte) : (s.setByte i v).buf = Memory.put s.cfg s.buf i v := rfl
@[simp] theorem State.setByte_inputs (s : State) (i : Nat) (v : Byte) : (s.setByte i v).inputs = s.inputs := rfl
@[simp] theorem State.setByte_hostReads (s : State) (i : Nat) (v : Byte) : (s.setByte i v).hostReads = s.hostReads := rfl
@[simp] theorem State.setByte_draws (s : State) (i : Nat) (v : Byte) : (s.setByte i v).draws = s.draws := rfl

@[simp] theorem State.finishCapture_cfg (s : State) : s.finishCapture.cfg = s.cfg := rfl
@[simp] theorem State.finishCapture_mode (s : State) : s.finishCapture.mode = Mode.armed := rfl
@[simp] theorem State.finishCapture_txs (s : State) : s.finishCapture.txs = s.txs := rfl
@[simp] theorem State.finishCapture_sbyte (s : State) : s.finishCapture.sbyte = s.sbyte := rfl
@[simp] theorem State.finishCapture_sbit (s : State) : s.finishCapture.sbit = s.sbit := rfl
@[simp] theorem State.finishCapture_txbyte (s : State) : s.finishCapture.txbyte = s.txbyte := rfl
@[simp] theorem State.finishCapture_txbit (s : State) : s.finishCapture.txbit = s.txbit := rfl
@[simp] theorem State.finishCapture_staged (s : State) : s.finishCapture.staged = s.staged := rfl
@[simp] theorem State.finishCapture_edgeIe (s : State) : s.finishCapture.edgeIe = s.edgeIe := rfl
@[simp] theorem State.finishCapture_edgeIfg (s : State) : s.finishCapture.edgeIfg = s.edgeIfg := rfl
@[simp] theorem State.finishCapture_tmr (s : State) : s.finishCapture.tmr = Tmr.stop := rfl
@[simp] theorem State.finishCapture_txOut (s : State) : s.finishCapture.txOut = s.txOut := rfl
@[simp] theorem State.finishCapture_buf (s : State) : s.finishCapture.buf = s.buf := rfl
@[simp] theorem State.finishCapture_inputs (s : State) : s.finishCapture.inputs = s.inputs := rfl
@[simp] theorem State.finishCapture_hostReads (s : State) : s.finishCapture.hostReads = s.hostReads := rfl
@[simp] theorem State.finishCapture_draws (s : State) : s.finishCapture.draws = s.draws := rfl

@[simp] theorem State.sampleCursor_cfg (s : State) (i : BitVec 8) (j : BitVec 3) : (s.sampleCursor i j).cfg = s.cfg := rfl
@[simp] theorem State.sampleCursor_mode (s : State) (i : BitVec 8) (j : BitVec 3) : (s.sampleCursor i j).mode = s.mode := rfl
@[simp] theorem State.sampleCursor_txs (s : State) (i : BitVec 8) (j : BitVec 3) : (s.sampleCursor i j).txs = s.txs := rfl
@[simp] theorem State.sampleCursor_sbyte (s : State) (i : BitVec 8) (j : BitVec 3) : (s.sampleCursor i j).sbyte = i := rfl
@[simp] theorem State.sampleCursor_sbit (s : State) (i : BitVec 8) (j : BitVec 3) : (s.sampleCursor i j).sbit = j := rfl
@[simp] theorem State.sampleCursor_txbyte (s : State) (i : BitVec 8) (j : BitVec 3) : (s.sampleCursor i j).txbyte = s.txbyte := rfl
@[simp] theorem State.sampleCursor_txbit (s : State) (i : BitVec 8) (j : BitVec 3) : (s.sampleCursor i j).txbit = s.txbit := rfl
@[simp] theorem State.sampleCursor_staged (s : State) (i : BitVec 8) (j : BitVec 3) : (s.sampleCursor i j).staged = s.staged := rfl
@[simp] theorem State.sampleCursor_edgeIe (s : State) (i : BitVec 8) (j : BitVec 3) : (s.sampleCursor i j).edgeIe = s.edgeIe := rfl
@[simp] theorem State.sampleCursor_edgeIfg (s : State) (i : BitVec 8) (j : BitVec 3) : (s.sampleCursor i j).edgeIfg = s.edgeIfg := rfl
@[simp] theorem State.sampleCursor_tmr (s : State) (i : BitVec 8) (j : BitVec 3) : (s.sampleCursor i j).tmr = s.tmr := rfl
@[simp] theorem State.sampleCursor_txOut (s : State) (i : BitVec 8) (j : BitVec 3) : (s.sampleCursor i j).txOut = s.txOut := rfl
@[simp] theorem State.sampleCursor_buf (s : State) (i : BitVec 8) (j : BitVec 3) : (s.sampleCursor i j).buf = s.buf := rfl
@[simp] theorem State.sampleCursor_inputs (s : State) (i : BitVec 8) (j : BitVec 3) : (s.sampleCursor i j).inputs = s.inputs := rfl
@[simp] theorem State.sampleCursor_hostReads (s : State) (i : BitVec 8) (j : BitVec 3) : (s.sampleCursor i j).hostReads = s.hostReads := rfl
@[simp] theorem State.sampleCursor_draws (s : State) (i : BitVec 8) (j : BitVec 3) : (s.sampleCursor i j).draws = s.draws := rfl

@[simp] theorem State.endDataBits_cfg (s : State) : s.endDataBits.cfg = s.cfg := rfl
@[simp] theorem State.endDataBits_mode (s : State) : s.endDataBits.mode = s.mode := rfl
@[simp] theorem State.endDataBits_txs (s : State) : s.endDataBits.txs = Txs.stop := rfl
@[simp] theorem State.endDataBits_sbyte (s : State) : s.endDataBits.sbyte = s.sbyte := rfl
@[simp] theorem State.endDataBits_sbit (s : State) : s.endDataBits.sbit = s.sbit := rfl
@[simp] theorem State.endDataBits_txbyte (s : State) : s.endDataBits.txbyte = s.txbyte + 1 := rfl
@[simp] theorem State.endDataBits_txbit (s : State) : s.endDataBits.txbit = 0 := rfl
@[simp] theorem State.endDataBits_staged (s : State) : s.endDataBits.staged = s.staged := rfl
@[simp] theorem State.endDataBits_edgeIe (s : State) : s.endDataBits.edgeIe = s.edgeIe := rfl
@[simp] theorem State.endDataBits_edgeIfg (s : State) : s.endDataBits.edgeIfg = s.edgeIfg := rfl
@[simp] theorem State.endDataBits_tmr (s : State) : s.endDataBits.tmr = s.tmr := rfl
@[simp] theorem State.endDataBits_txOut (s : State) : s.endDataBits.txOut = s.txOut := rfl
@[simp] theorem State.endDataBits_buf (s : State) : s.endDataBits.buf = s.buf := rfl
@[simp] theorem State.endDataBits_inputs (s : State) : s.endDataBits.inputs = s.inputs := rfl
@[simp] theorem State.endDataBits_hostReads (s : State) : s.endDataBits.hostReads = s.hostReads := rfl
@[simp] theorem State.endDataBits_draws (s : State) : s.endDataBits.draws = s.draws := rfl

@[simp] theorem State.setStaged_cfg (s : State) (v : Bool) : (s.setStaged v).cfg = s.cfg := rfl
@[simp] theorem State.setStaged_mode (s : State) (v : Bool) : (s.setStaged v).mode = s.mode := rfl
@[simp] theorem State.setStaged_txs (s : State) (v : Bool) : (s.setStaged v).txs = s.txs := rfl
@[simp] theorem State.setStaged_sbyte (s : State) (v : Bool) : (s.setStaged v).sbyte = s.sbyte := rfl
@[simp] theorem State.setStaged_sbit (s : State) (v : Bool) : (s.setStaged v).sbit = s.sbit := rfl
@[simp] theorem State.setStaged_txbyte (s : State) (v : Bool) : (s.setStaged v).txbyte = s.txbyte := rfl
@[simp] theorem State.setStaged_txbit (s : State) (v : Bool) : (s.setStaged v).txbit = s.txbit := rfl
@[simp] theorem State.setStaged_staged (s : State) (v : Bool) : (s.setStaged v).staged = v := rfl
@[simp] theorem State.setStaged_edgeIe (s : State) (v : Bool) : (s.setStaged v).edgeIe = s.edgeIe := rfl
@[simp] theorem State.setStaged_edgeIfg (s : State) (v : Bool) : (s.setStaged v).edgeIfg = s.edgeIfg := rfl
@[simp] theorem State.setStaged_tmr (s : State) (v : Bool) : (s.setStaged v).tmr = s.tmr := rfl
@[simp] theorem State.setStaged_txOut (s : State) (v : Bool) : (s.setStaged v).txOut = s.txOut := rfl
@[simp] theorem State.setStaged_buf (s : State) (v : Bool) : (s.setStaged v).buf = s.buf := rfl
@[simp] theorem State.setStaged_inputs (s : State) (v : Bool) : (s.setStaged v).inputs = s.inputs := rfl
@[simp] theorem State.setStaged_hostReads (s : State) (v : Bool) : (s.setStaged v).hostReads = s.hostReads := rfl
@[simp] theorem State.setStaged_draws (s : State) (v : Bool) : (s.setStaged v).draws = s.draws := rfl

@[simp] theorem State.drawStaged_cfg (s : State) : s.drawStaged.cfg = s.cfg := rfl
@[simp] theorem State.drawStaged_mode (s : State) : s.drawStaged.mode = s.mode := rfl
@[simp] theorem State.drawStaged_txs (s : State) : s.drawStaged.txs = s.txs := rfl
@[simp] theorem State.drawStaged_sbyte (s : State) : s.drawStaged.sbyte = s.sbyte := rfl
@[simp] theorem State.drawStaged_sbit (s : State) : s.drawStaged.sbit = s.sbit := rfl
@[simp] theorem State.drawStaged_txbyte (s : State) : s.drawStaged.txbyte = s.txbyte := rfl
@[simp] theorem State.drawStaged_txbit (s : State) : s.drawStaged.txbit = s.txbit := rfl
@[simp] theorem State.drawStaged_staged (s : State) : s.drawStaged.staged = Config.drawStaged s.draws := rfl
@[simp] theorem State.drawStaged_edgeIe (s : State) : s.drawStaged.edgeIe = s.edgeIe := rfl
@[simp] theorem State.drawStaged_edgeIfg (s : State) : s.drawStaged.edgeIfg = s.edgeIfg := rfl
@[simp] theorem State.drawStaged_tmr (s : State) : s.drawStaged.tmr = s.tmr := rfl
@[simp] theorem State.drawStaged_txOut (s : State) : s.drawStaged.txOut = s.txOut := rfl
@[simp] theorem State.drawStaged_buf (s : State) : s.drawStaged.buf = s.buf := rfl
@[simp] theorem State.drawStaged_inputs (s : State) : s.drawStaged.inputs = s.inputs := rfl
@[simp] theorem State.drawStaged_hostReads (s : State) : s.drawStaged.hostReads = s.hostReads := rfl
@[simp] theorem State.drawStaged_draws (s : State) : s.drawStaged.draws = s.draws + 1 := rfl

@[simp] theorem State.nextTxBit_cfg (s : State) : s.nextTxBit.cfg = s.cfg := rfl
@[simp] theorem State.nextTxBit_mode (s : State) : s.nextTxBit.mode = s.mode := rfl
@[simp] theorem State.nextTxBit_txs (s : State) : s.nextTxBit.txs = s.txs := rfl
@[simp] theorem State.nextTxBit_sbyte (s : State) : s.nextTxBit.sbyte = s.sbyte := rfl
@[simp] theorem State.nextTxBit_sbit (s : State) : s.nextTxBit.sbit = s.sbit := rfl
@[simp] theorem State.nextTxBit_txbyte (s : State) : s.nextTxBit.txbyte = s.txbyte := rfl
@[simp] theorem State.nextTxBit_txbit (s : State) : s.nextTxBit.txbit = s.txbit + 1 := rfl
@[simp] theorem State.nextTxBit_staged (s : State) : s.nextTxBit.staged = s.staged := rfl
@[simp] theorem State.nextTxBit_edgeIe (s : State) : s.nextTxBit.edgeIe = s.edgeIe := rfl
@[simp] theorem State.nextTxBit_edgeIfg (s : State) : s.nextTxBit.edgeIfg = s.edgeIfg := rfl
@[simp] theorem State.nextTxBit_tmr (s : State) : s.nextTxBit.tmr = s.tmr := rfl
@[simp] theorem State.nextTxBit_txOut (s : State) : s.nextTxBit.txOut = s.txOut := rfl
@[simp] theorem State.nextTxBit_buf (s : State) : s.nextTxBit.buf = s.buf := rfl
@[simp] theorem State.nextTxBit_inputs (s : State) : s.nextTxBit.inputs = s.inputs := rfl
@[simp] theorem State.nextTxBit_hostReads (s : State) : s.nextTxBit.hostReads = s.hostReads := rfl
@[simp] theorem State.nextTxBit_draws (s : State) : s.nextTxBit.draws = s.draws := rfl

@[simp] theorem State.drive_cfg (s : State) (v : Bool) : (s.drive v).cfg = s.cfg := rfl
@[simp] theorem State.drive_mode (s : State) (v : Bool) : (s.drive v).mode = s.mode := rfl
@[simp] theorem State.drive_txs (s : State) (v : Bool) : (s.drive v).txs = s.txs := rfl
@[simp] theorem State.drive_sbyte (s : State) (v : Bool) : (s.drive v).sbyte = s.sbyte := rfl
@[simp] theorem State.drive_sbit (s : State) (v : Bool) : (s.drive v).sbit = s.sbit := rfl
@[simp] theorem State.drive_txbyte (s : State) (v : Bool) : (s.drive v).txbyte = s.txbyte := rfl
@[simp] theorem State.drive_txbit (s : State) (v : Bool) : (s.drive v).txbit = s.txbit := rfl
@[simp] theorem State.drive_staged (s : State) (v : Bool) : (s.drive v).staged = s.staged := rfl
@[simp] theorem State.drive_edgeIe (s : State) (v : Bool) : (s.drive v).edgeIe = s.edgeIe := rfl
@[simp] theorem State.drive_edgeIfg (s : State) (v : Bool) : (s.drive v).edgeIfg = s.edgeIfg := rfl
@[simp] theorem State.drive_tmr (s : State) (v : Bool) : (s.drive v).tmr = s.tmr := rfl
@[simp] theorem State.drive_txOut (s : State) (v : Bool) : (s.drive v).txOut = v := rfl
@[simp] theorem State.drive_buf (s : State) (v : Bool) : (s.drive v).buf = s.buf := rfl
@[simp] theorem State.drive_inputs (s : State) (v : Bool) : (s.drive v).inputs = s.inputs := rfl
@[simp] theorem State.drive_hostReads (s : State) (v : Bool) : (s.drive v).hostReads = s.hostReads := rfl
@[simp] theorem State.drive_draws (s : State) (v : Bool) : (s.drive v).draws = s.draws := rfl

@[simp] theorem State.setTxs_cfg (s : State) (x : Txs) : (s.setTxs x).cfg = s.cfg := rfl
@[simp] theorem State.setTxs_mode (s : State) (x : Txs) : (s.setTxs x).mode = s.mode := rfl
@[simp] theorem State.setTxs_txs (s : State) (x : Txs) : (s.setTxs x).txs = x := rfl
@[simp] theorem State.setTxs_sbyte (s : State) (x : Txs) : (s.setTxs x).sbyte = s.sbyte := rfl
@[simp] theorem State.setTxs_sbit (s : State) (x : Txs) : (s.setTxs x).sbit = s.sbit := rfl
@[simp] theorem State.setTxs_txbyte (s : State) (x : Txs) : (s.setTxs x).txbyte = s.txbyte := rfl
@[simp] theorem State.setTxs_txbit (s : State) (x : Txs) : (s.setTxs x).txbit = s.txbit := rfl
@[simp] theorem State.setTxs_staged (s : State) (x : Txs) : (s.setTxs x).staged = s.staged := rfl
@[simp] theorem State.setTxs_edgeIe (s : State) (x : Txs) : (s.setTxs x).edgeIe = s.edgeIe := rfl
@[simp] theorem State.setTxs_edgeIfg (s : State) (x : Txs) : (s.setTxs x).edgeIfg = s.edgeIfg := rfl
@[simp] theorem State.setTxs_tmr (s : State) (x : Txs) : (s.setTxs x).tmr = s.tmr := rfl
@[simp] theorem State.setTxs_txOut (s : State) (x : Txs) : (s.setTxs x).txOut = s.txOut := rfl
@[simp] theorem State.setTxs_buf (s : State) (x : Txs) : (s.setTxs x).buf = s.buf := rfl
@[simp] theorem State.setTxs_inputs (s : State) (x : Txs) : (s.setTxs x).inputs = s.inputs := rfl
@[simp] theorem State.setTxs_hostReads (s : State) (x : Txs) : (s.setTxs x).hostReads = s.hostReads := rfl
@[simp] theorem State.setTxs_draws (s : State) (x : Txs) : (s.setTxs x).draws = s.draws := rfl

@[simp] theorem State.startTransmission_cfg (s : State) : s.startTransmission.cfg = s.cfg := rfl
@[simp] theorem State.startTransmission_mode (s : State) : s.startTransmission.mode = Mode.transmitting := rfl
@[simp] theorem State.startTransmission_txs (s : State) : s.startTransmission.txs = Txs.start := rfl
@[simp] theorem State.startTransmission_sbyte (s : State) : s.startTransmission.sbyte = s.sbyte := rfl
@[simp] theorem State.startTransmission_sbit (s : State) : s.startTransmission.sbit = s.sbit := rfl
@[simp] theorem State.startTransmission_txbyte (s : State) : s.startTransmission.txbyte = 0 := rfl
@[simp] theorem State.startTransmission_txbit (s : State) : s.startTransmission.txbit = 1 := rfl
@[simp] theorem State.startTransmission_staged (s : State) : s.startTransmission.staged = false := rfl
@[simp] theorem State.startTransmission_edgeIe (s : State) : s.startTransmission.edgeIe = s.edgeIe := rfl
@[simp] theorem State.startTransmission_edgeIfg (s : State) : s.startTransmission.edgeIfg = s.edgeIfg := rfl
@[simp] theorem State.startTransmission_tmr (s : State) : s.startTransmission.tmr = Tmr.bit := rfl
@[simp] theorem State.startTransmission_txOut (s : State) : s.startTransmission.txOut = s.txOut := rfl
@[simp] theorem State.startTransmission_buf (s : State) : s.startTransmission.buf = s.buf := rfl
@[simp] theorem State.startTransmission_inputs (s : State) : s.startTransmission.inputs = s.inputs := rfl
@[simp] theorem State.startTransmission_hostReads (s : State) : s.startTransmission.hostReads = s.hostReads := rfl
@[simp] theorem State.startTransmission_draws (s : State) : s.startTransmission.draws = s.draws := rfl

@[simp] theorem State.finishCycle_cfg (s : State) : s.finishCycle.cfg = s.cfg := rfl
@[simp] theorem State.finishCycle_mode (s : State) : s.finishCycle.mode = Mode.idle := rfl
@[simp] theorem State.finishCycle_txs (s : State) : s.finishCycle.txs = s.txs := rfl
@[simp] theorem State.finishCycle_sbyte (s : State) : s.finishCycle.sbyte = 1 := rfl
@[simp] theorem State.finishCycle_sbit (s : State) : s.finishCycle.sbit = 0 := rfl
@[simp] theorem State.finishCycle_txbyte (s : State) : s.finishCycle.txbyte = s.txbyte := rfl
@[simp] theorem State.finishCycle_txbit (s : State) : s.finishCycle.txbit = s.txbit := rfl
@[simp] theorem State.finishCycle_staged (s : State) : s.finishCycle.staged = s.staged := rfl
@[simp] theorem State.finishCycle_edgeIe (s : State) : s.finishCycle.edgeIe = true := rfl
@[simp] theorem State.finishCycle_edgeIfg (s : State) : s.finishCycle.edgeIfg = false := rfl
@[simp] theorem State.finishCycle_tmr (s : State) : s.finishCycle.tmr = Tmr.stop := rfl
@[simp] theorem State.finishCycle_txOut (s : State) : s.finishCycle.txOut = s.txOut := rfl
@[simp] theorem State.finishCycle_buf (s : State) : s.finishCycle.buf = s.buf := rfl
@[simp] theorem State.finishCycle_inputs (s : State) : s.finishCycle.inputs = s.inputs := rfl
@[simp] theorem State.finishCycle_hostReads (s : State) : s.finishCycle.hostReads = s.hostReads := rfl
@[simp] theorem State.finishCycle_draws (s : State) : s.finishCycle.draws = s.draws := rfl

@[simp] theorem State.powerCycle_cfg (s : State) : s.powerCycle.cfg = s.cfg := rfl
@[simp] theorem State.powerCycle_mode (s : State) : s.powerCycle.mode = Mode.idle := rfl
@[simp] theorem State.powerCycle_txs (s : State) : s.powerCycle.txs = Txs.ofBits (Config.drawTxs s.draws) := rfl
@[simp] theorem State.powerCycle_sbyte (s : State) : s.powerCycle.sbyte = 1 := rfl
@[simp] theorem State.powerCycle_sbit (s : State) : s.powerCycle.sbit = 0 := rfl
@[simp] theorem State.powerCycle_txbyte (s : State) : s.powerCycle.txbyte = Config.drawTxbyte s.draws := rfl
@[simp] theorem State.powerCycle_txbit (s : State) : s.powerCycle.txbit = Config.drawTxbit s.draws := rfl
@[simp] theorem State.powerCycle_staged (s : State) : s.powerCycle.staged = Config.drawStaged s.draws := rfl
@[simp] theorem State.powerCycle_edgeIe (s : State) : s.powerCycle.edgeIe = true := rfl
@[simp] theorem State.powerCycle_edgeIfg (s : State) : s.powerCycle.edgeIfg = false := rfl
@[simp] theorem State.powerCycle_tmr (s : State) : s.powerCycle.tmr = Tmr.stop := rfl
@[simp] theorem State.powerCycle_txOut (s : State) : s.powerCycle.txOut = true := rfl
@[simp] theorem State.powerCycle_buf (s : State) : s.powerCycle.buf = drawBytes s.cfg s.draws (Memory.put s.cfg s.buf 0 s.cfg.header) (s.cfg.cap - 1) := rfl
@[simp] theorem State.powerCycle_inputs (s : State) : s.powerCycle.inputs = s.inputs := rfl
@[simp] theorem State.powerCycle_hostReads (s : State) : s.powerCycle.hostReads = s.hostReads := rfl
@[simp] theorem State.powerCycle_draws (s : State) : s.powerCycle.draws = s.draws + 1 := rfl

@[simp] theorem State.taken_cfg (s : State) : s.taken.cfg = s.cfg := by
  unfold State.taken; split <;> rfl
@[simp] theorem State.taken_mode (s : State) : s.taken.mode = s.mode := by
  unfold State.taken; split <;> rfl
@[simp] theorem State.taken_txs (s : State) : s.taken.txs = s.txs := by
  unfold State.taken; split <;> rfl
@[simp] theorem State.taken_sbyte (s : State) : s.taken.sbyte = s.sbyte := by
  unfold State.taken; split <;> rfl
@[simp] theorem State.taken_sbit (s : State) : s.taken.sbit = s.sbit := by
  unfold State.taken; split <;> rfl
@[simp] theorem State.taken_txbyte (s : State) : s.taken.txbyte = s.txbyte := by
  unfold State.taken; split <;> rfl
@[simp] theorem State.taken_txbit (s : State) : s.taken.txbit = s.txbit := by
  unfold State.taken; split <;> rfl
@[simp] theorem State.taken_staged (s : State) : s.taken.staged = s.staged := by
  unfold State.taken; split <;> rfl
@[simp] theorem State.taken_edgeIe (s : State) : s.taken.edgeIe = s.edgeIe := by
  unfold State.taken; split <;> rfl
@[simp] theorem State.taken_edgeIfg (s : State) : s.taken.edgeIfg = s.edgeIfg := by
  unfold State.taken; split <;> rfl
@[simp] theorem State.taken_tmr (s : State) : s.taken.tmr = s.tmr := by
  unfold State.taken; split <;> rfl
@[simp] theorem State.taken_txOut (s : State) : s.taken.txOut = s.txOut := by
  unfold State.taken; split <;> rfl
@[simp] theorem State.taken_buf (s : State) : s.taken.buf = s.buf := by
  unfold State.taken; split <;> rfl
@[simp] theorem State.taken_hostReads (s : State) : s.taken.hostReads = s.hostReads := by
  unfold State.taken; split <;> rfl

theorem State.taken_inputs (s : State) : s.taken.inputs = s.inputs.tail := by
  unfold State.taken; split <;> simp_all

/-- A queued stimulus is taken out of the queue and nothing else changes. -/
theorem State.taken_of_cons (s : State) (st : Stimulus) (rest : List Stimulus) (h : s.inputs = st :: rest) :
    s.taken = { s with inputs := rest } := by
  unfold State.taken; rw [h]

theorem State.nextStimulus_of_cons (s : State) (st : Stimulus) (rest : List Stimulus) (h : s.inputs = st :: rest) :
    s.nextStimulus = st := by
  unfold State.nextStimulus; rw [h]

/-- The buffer's bytes depend on the configuration and the buffer alone. -/
theorem State.byteAt_congr {s t : State} (hc : t.cfg = s.cfg) (hb : t.buf = s.buf) (i : Nat) : t.byteAt i = s.byteAt i := by
  unfold State.byteAt; rw [hc, hb]

@[simp] theorem State.latchEdge_byteAt (s : State) (k : Nat) : s.latchEdge.byteAt k = s.byteAt k := rfl
@[simp] theorem State.arm_byteAt (s : State) (k : Nat) : s.arm.byteAt k = s.byteAt k := rfl
@[simp] theorem State.give_byteAt (s : State) (v : Byte) (k : Nat) : (s.give v).byteAt k = s.byteAt k := rfl
@[simp] theorem State.finishCapture_byteAt (s : State) (k : Nat) : s.finishCapture.byteAt k = s.byteAt k := rfl
@[simp] theorem State.sampleCursor_byteAt (s : State) (i : BitVec 8) (j : BitVec 3) (k : Nat) : (s.sampleCursor i j).byteAt k = s.byteAt k := rfl
@[simp] theorem State.endDataBits_byteAt (s : State) (k : Nat) : s.endDataBits.byteAt k = s.byteAt k := rfl
@[simp] theorem State.setStaged_byteAt (s : State) (v : Bool) (k : Nat) : (s.setStaged v).byteAt k = s.byteAt k := rfl
@[simp] theorem State.drawStaged_byteAt (s : State) (k : Nat) : s.drawStaged.byteAt k = s.byteAt k := rfl
@[simp] theorem State.nextTxBit_byteAt (s : State) (k : Nat) : s.nextTxBit.byteAt k = s.byteAt k := rfl
@[simp] theorem State.drive_byteAt (s : State) (v : Bool) (k : Nat) : (s.drive v).byteAt k = s.byteAt k := rfl
@[simp] theorem State.setTxs_byteAt (s : State) (x : Txs) (k : Nat) : (s.setTxs x).byteAt k = s.byteAt k := rfl
@[simp] theorem State.startTransmission_byteAt (s : State) (k : Nat) : s.startTransmission.byteAt k = s.byteAt k := rfl
@[simp] theorem State.finishCycle_byteAt (s : State) (k : Nat) : s.finishCycle.byteAt k = s.byteAt k := rfl

@[simp] theorem State.taken_byteAt (s : State) (k : Nat) : s.taken.byteAt k = s.byteAt k :=
  State.byteAt_congr s.taken_cfg s.taken_buf k

@[simp] theorem State.taken_key (s : State) (ew : EventWord) : s.taken.key ew = s.key ew := by
  unfold State.key; simp

@[simp] theorem State.taken_enabled (s : State) (e : Evt) : s.taken.enabled e = s.enabled e := by
  cases e <;> simp [State.enabled, State.esvcEnabled, State.tickEnabled]

@[simp] theorem State.taken_statusByte (s : State) : s.taken.statusByte = s.statusByte := by
  simp [State.statusByte, State.ready]

end Sys2Proof.Machine
end

