-- ==== Sys2Proof/Laws/Memory.lean ====
section
/-! SUPPORT. The laws of the sample buffer: a read after a write, and that every memory operation keeps the canonical form. -/

namespace Sys2Proof.Machine

/-- An index below every listed one reads as unlisted. -/
theorem Memory.get_of_lt (c : Config) (m : Memory) (i : Nat) (h : ∀ e ∈ m, i < e.1) : Memory.get c m i = c.unlisted i := by
  induction m with
  | nil => rfl
  | cons e m ih =>
    have he : i ≠ e.1 := Nat.ne_of_lt (h e (by simp))
    rw [Memory.get, if_neg he]
    exact ih fun e' he' => h e' (List.mem_cons_of_mem _ he')

/-- A write leaves every other index alone, in any memory. -/
theorem Memory.get_put_ne (c : Config) (m : Memory) (i k : Nat) (v : Byte) (h : k ≠ i) :
    Memory.get c (Memory.put c m i v) k = Memory.get c m k := by
  induction m with
  | nil =>
    unfold Memory.put
    split <;> simp [Memory.get, h]
  | cons e m ih =>
    obtain ⟨j, w⟩ := e
    unfold Memory.put
    split
    · split <;> simp [Memory.get, h]
    · split
      · subst_vars
        split <;> simp [Memory.get, h]
      · simp [Memory.get, ih]

/-- A read after a write to the same index gives the byte written, in a memory whose indices rise. -/
theorem Memory.get_put_self (c : Config) (m : Memory) (i : Nat) (v : Byte) (h : m.Pairwise (fun a b => a.1 < b.1)) :
    Memory.get c (Memory.put c m i v) i = v := by
  induction m with
  | nil =>
    unfold Memory.put
    split <;> simp_all [Memory.get]
  | cons e m ih =>
    obtain ⟨j, w⟩ := e
    obtain ⟨hj, hm⟩ := List.pairwise_cons.mp h
    have below : ∀ e ∈ m, j < e.1 := fun e he => hj e he
    unfold Memory.put
    split
    · rename_i hij
      split
      · rename_i hv
        rw [hv]
        refine Memory.get_of_lt c _ i ?_
        intro e he
        rcases List.mem_cons.mp he with rfl | he
        · exact hij
        · exact Nat.lt_trans hij (below e he)
      · simp [Memory.get]
    · split
      · rename_i hij
        split
        · rename_i hv
          rw [hv]
          exact Memory.get_of_lt c _ i (hij ▸ below)
        · simp [Memory.get]
      · rename_i hij
        rw [Memory.get, if_neg hij]
        exact ih hm

/-- What a memory lists after a write: the written pair, or one listed before. -/
theorem Memory.mem_put (c : Config) (m : Memory) (i : Nat) (v : Byte) (e : Host.Cell) (h : e ∈ Memory.put c m i v) :
    e ∈ m ∨ e = (i, v) ∧ v ≠ c.unlisted i := by
  induction m with
  | nil =>
    unfold Memory.put at h
    split at h <;> simp_all
  | cons x m ih =>
    obtain ⟨j, w⟩ := x
    unfold Memory.put at h
    split at h
    · split at h
      · exact .inl h
      · rename_i hv
        rcases List.mem_cons.mp h with rfl | h
        · exact .inr ⟨rfl, hv⟩
        · exact .inl h
    · split at h
      · split at h
        · exact .inl (List.mem_cons_of_mem _ h)
        · rename_i hv
          rcases List.mem_cons.mp h with rfl | h
          · exact .inr ⟨rfl, hv⟩
          · exact .inl (List.mem_cons_of_mem _ h)
      · rcases List.mem_cons.mp h with rfl | h
        · exact .inl (by simp)
        · exact (ih h).imp_left (List.mem_cons_of_mem _)

/-- A write keeps the listed indices strictly rising. -/
theorem Memory.put_rising (c : Config) (m : Memory) (i : Nat) (v : Byte) (h : m.Pairwise (fun a b => a.1 < b.1)) :
    (Memory.put c m i v).Pairwise (fun a b => a.1 < b.1) := by
  induction m with
  | nil =>
    unfold Memory.put
    split <;> simp
  | cons x m ih =>
    obtain ⟨j, w⟩ := x
    obtain ⟨hj, hm⟩ := List.pairwise_cons.mp h
    unfold Memory.put
    split
    · rename_i hij
      split
      · exact h
      · refine List.pairwise_cons.mpr ⟨fun e he => ?_, h⟩
        rcases List.mem_cons.mp he with rfl | he
        · exact hij
        · exact Nat.lt_trans hij (hj e he)
    · split
      · rename_i hij
        split
        · exact hm
        · exact List.pairwise_cons.mpr ⟨fun e he => hij ▸ hj e he, hm⟩
      · refine List.pairwise_cons.mpr ⟨fun e he => ?_, ih hm⟩
        rcases Memory.mem_put c m i v e he with he | ⟨rfl, -⟩
        · exact hj e he
        · simp only
          omega

/-- A write at an index of the buffer keeps the canonical form. -/
theorem Memory.put_wf (c : Config) (m : Memory) (i : Nat) (v : Byte) (h : Memory.wf c m) (hi : i < c.cap) :
    Memory.wf c (Memory.put c m i v) := by
  refine ⟨Memory.put_rising c m i v h.1, fun e he => ?_⟩
  rcases Memory.mem_put c m i v e he with he | ⟨rfl, hv⟩
  · exact h.2 e he
  · exact ⟨hi, hv⟩

/-- The draws of a RESET keep the canonical form. -/
theorem drawBytes_wf (c : Config) (n : Nat) (m : Memory) (k : Nat) (h : Memory.wf c m) (hk : k < c.cap) :
    Memory.wf c (drawBytes c n m k) := by
  induction k with
  | zero => exact h
  | succ k ih => exact Memory.put_wf c _ _ _ (ih (by omega)) hk

/-- The draws of a RESET leave the header and every index past the last alone. -/
theorem drawBytes_get_outside (c : Config) (n : Nat) (m : Memory) (k i : Nat) (h : i = 0 ∨ k < i) :
    Memory.get c (drawBytes c n m k) i = Memory.get c m i := by
  induction k with
  | zero => rfl
  | succ k ih =>
    rw [drawBytes, Memory.get_put_ne c _ _ _ _ (by omega)]
    exact ih (by omega)

/-- The buffer of the reset state lists nothing, which is in canonical form. -/
theorem reset_buf_wf : Memory.wf State.reset.cfg State.reset.buf := by decide

/-- A write of the buffer, read at every index. -/
theorem State.byteAt_setByte (s : State) (i k : Nat) (v : Byte) (h : Memory.wf s.cfg s.buf) :
    (s.setByte i v).byteAt k = if k = i then v else s.byteAt k := by
  split
  · rename_i hk
    subst hk
    exact Memory.get_put_self s.cfg s.buf k v h.1
  · rename_i hk
    exact Memory.get_put_ne s.cfg s.buf i k v hk

end Sys2Proof.Machine
end

