-- ==== Sys2Proof/Laws/Dispatch.lean ====
section
/-! SUPPORT. What the dispatch can do: which words and which fields select an operation, and what a served operation implies. -/

namespace Sys2Proof

/-- The `MODE` and `TXS` that a row of the opcode table fixes (R76). -/
def Instr.Selected (i : Instr) (m : Mode) (x : Txs) : Prop :=
  match i with
  | .reset => True
  | .edge => True
  | .esvc => m = .idle
  | .tickSmp _ => m = .sampling
  | .tickTxStart _ => m = .transmitting ∧ x = .start
  | .tickTxData _ => m = .transmitting ∧ x = .data
  | .tickTxStop _ => m = .transmitting ∧ x = .stop
  | .handoff => True
  | .status => True

/-- A tick is dispatched on `MODE` and `TXS` alone. -/
@[simp] theorem decodeFields_tick (d : Bool) (m : Mode) (x : Txs) : decodeFields (mkWord .tick d) m x = decodeTick d m x := by
  cases d <;> rfl

@[simp] theorem decodeFields_reset (m : Mode) (x : Txs) : decodeFields (mkWord .reset false) m x = .ok .reset := rfl

@[simp] theorem decodeFields_edge (m : Mode) (x : Txs) : decodeFields (mkWord .edge false) m x = .ok .edge := rfl

@[simp] theorem decodeFields_handoff (m : Mode) (x : Txs) : decodeFields (mkWord .handoff false) m x = .ok .handoff := rfl

@[simp] theorem decodeFields_status (m : Mode) (x : Txs) : decodeFields (mkWord .status false) m x = .ok .status := rfl

@[simp] theorem decodeFields_esvc_idle (x : Txs) : decodeFields (mkWord .esvc false) .idle x = .ok .esvc := rfl

/-- A word selects an operation exactly when it is that operation's word and the fields are those its row fixes. -/
theorem decodeFields_ok_iff (ew : EventWord) (m : Mode) (x : Txs) (i : Instr) :
    decodeFields ew m x = .ok i ↔ ew = i.word ∧ i.Selected m x := by
  cases i with
  | reset => cases m <;> cases x <;> revert ew <;> unfold Instr.Selected <;> decide
  | edge => cases m <;> cases x <;> revert ew <;> unfold Instr.Selected <;> decide
  | esvc => cases m <;> cases x <;> revert ew <;> unfold Instr.Selected <;> decide
  | tickSmp d => cases d <;> cases m <;> cases x <;> revert ew <;> unfold Instr.Selected <;> decide
  | tickTxStart d => cases d <;> cases m <;> cases x <;> revert ew <;> unfold Instr.Selected <;> decide
  | tickTxData d => cases d <;> cases m <;> cases x <;> revert ew <;> unfold Instr.Selected <;> decide
  | tickTxStop d => cases d <;> cases m <;> cases x <;> revert ew <;> unfold Instr.Selected <;> decide
  | handoff => cases m <;> cases x <;> revert ew <;> unfold Instr.Selected <;> decide
  | status => cases m <;> cases x <;> revert ew <;> unfold Instr.Selected <;> decide

/-- The fields of a key are those it was made of, so decoding it is dispatching on them (R75). -/
@[simp] theorem decode_mkKey (ew : EventWord) (m : Mode) (x : Txs) : decode (mkKey ew m x) = decodeFields ew m x := by
  have hw : keyWord (mkKey ew m x) = ew := by cases m <;> cases x <;> revert ew <;> decide
  have hm : keyMode (mkKey ew m x) = m := by cases m <;> cases x <;> revert ew <;> decide
  have hx : keyTxs (mkKey ew m x) = x := by cases m <;> cases x <;> revert ew <;> decide
  unfold decode
  rw [hw, hm, hx]

namespace Machine

/-- An operation whose row the state's fields match and whose event is enabled is performed. -/
theorem State.serve_of (s : State) (i : Instr) (body : Result) (hs : i.Selected s.mode s.txs) (he : s.enabled i.evt = true) :
    s.serve i body = body := by
  unfold State.serve
  rw [(decodeFields_ok_iff i.word s.mode s.txs i).mpr ⟨rfl, hs⟩]
  simp [he]

/-- An operation whose row the state's fields match but whose event is not enabled has no step. -/
theorem State.serve_disabled (s : State) (i : Instr) (body : Result) (hs : i.Selected s.mode s.txs) (he : s.enabled i.evt = false) :
    s.serve i body = .fault (.notEnabled (s.key i.word)) := by
  unfold State.serve
  rw [(decodeFields_ok_iff i.word s.mode s.txs i).mpr ⟨rfl, hs⟩]
  simp [he]

/-- Where serving an operation gives a next state, its row matched, its event was enabled, and its body gave that state. -/
theorem State.serve_next (s t : State) (i : Instr) (body : Result) (h : s.serve i body = .next t) :
    i.Selected s.mode s.txs ∧ s.enabled i.evt = true ∧ body = .next t := by
  unfold State.serve at h
  split at h
  · rename_i r _
    cases r <;> simp only [State.stopped] at h <;> (try split at h) <;> cases h
  · rename_i j hj
    split at h
    · rename_i hji
      subst hji
      split at h
      · rename_i he
        exact ⟨((decodeFields_ok_iff _ _ _ _).mp hj).2, he, h⟩
      · cases h
    · cases h

/-- An event whose key selects no operation never gives a next state. -/
theorem State.stopped_ne_next (s t : State) (ew : EventWord) (r : Reject) : s.stopped ew r ≠ .next t := by
  cases r <;> simp only [State.stopped] <;> (try split) <;> simp

end Machine

end Sys2Proof
end

