-- ==== Sys2Proof/Laws/Operands.lean ====
section
/-! SUPPORT. What the operand operations do: one bit of a byte replaced, the sample cursor's advance, the staging of a bit. -/

namespace Sys2Proof.Machine

/-- Replacing a bit of a byte: that bit is the value written, every other bit is kept (R122). -/
theorem setBit_getLsbD (b : Byte) (j k : Nat) (v : Bool) (hj : j < 8) :
    (setBit b j v).getLsbD k = if k = j then v else b.getLsbD k := by
  unfold setBit
  by_cases hk : k < 8
  · interval_cases j <;> interval_cases k <;> cases v <;> simp
  · have hne : k ≠ j := by omega
    rw [if_neg hne, BitVec.getLsbD_of_ge _ _ (by omega), BitVec.getLsbD_of_ge _ _ (by omega)]

/-- Before the last bit of a byte, the cursor moves to the next bit (R121). -/
theorem State.advanceSample_of_ne (s : State) (h : s.sbit ≠ 7) : s.advanceSample = s.sampleCursor s.sbyte (s.sbit + 1) := by
  have key : ∀ b : BitVec 3, b ≠ 7 →
      ¬ (b.zeroExtend 4 + 1 = (8 : BitVec 4)) ∧ (b.zeroExtend 4 + 1 : BitVec 4).extractLsb' 0 3 = b + 1 := by decide
  obtain ⟨h8, hn⟩ := key s.sbit h
  unfold State.advanceSample
  simp only [h8, hn, if_false]

/-- After the last bit of byte `CAP`-1 the capture completes (R121, R124). -/
theorem State.advanceSample_of_full (s : State) (h : s.sbit = 7) (hf : (s.sbyte + 1).toNat = s.cfg.cap) :
    s.advanceSample = (s.sampleCursor (s.sbyte + 1) 0).finishCapture := by
  have key : ((7 : BitVec 3).zeroExtend 4 + 1 : BitVec 4) = 8 := by decide
  unfold State.advanceSample
  rw [h]
  simp only [key, if_true, State.sampleIndex, State.sampleCursor_sbyte, hf]

/-- After the last bit of any other byte the cursor moves to the next byte's first bit (R121, R123). -/
theorem State.advanceSample_of_next (s : State) (h : s.sbit = 7) (hf : (s.sbyte + 1).toNat ≠ s.cfg.cap) :
    s.advanceSample = s.sampleCursor (s.sbyte + 1) 0 := by
  have key : ((7 : BitVec 3).zeroExtend 4 + 1 : BitVec 4) = 8 := by decide
  unfold State.advanceSample
  rw [h]
  simp only [key, if_true, State.sampleIndex, State.sampleCursor_sbyte, hf, if_false]

/-- The three ways the sample cursor advances. -/
theorem State.advanceSample_cases (s : State) :
    (s.sbit ≠ 7 ∧ s.advanceSample = s.sampleCursor s.sbyte (s.sbit + 1)) ∨
      (s.sbit = 7 ∧ (s.sbyte + 1).toNat = s.cfg.cap ∧ s.advanceSample = (s.sampleCursor (s.sbyte + 1) 0).finishCapture) ∨
      (s.sbit = 7 ∧ (s.sbyte + 1).toNat ≠ s.cfg.cap ∧ s.advanceSample = s.sampleCursor (s.sbyte + 1) 0) := by
  by_cases h : s.sbit = 7
  · by_cases hf : (s.sbyte + 1).toNat = s.cfg.cap
    · exact .inr (.inl ⟨h, hf, s.advanceSample_of_full h hf⟩)
    · exact .inr (.inr ⟨h, hf, s.advanceSample_of_next h hf⟩)
  · exact .inl ⟨h, s.advanceSample_of_ne h⟩

/-- The advance of the sample cursor leaves the buffer alone. -/
@[simp] theorem State.advanceSample_byteAt (s : State) (k : Nat) : s.advanceSample.byteAt k = s.byteAt k := by
  rcases s.advanceSample_cases with ⟨-, h⟩ | ⟨-, -, h⟩ | ⟨-, -, h⟩ <;> rw [h] <;> simp

/-- A bit inside the buffer is staged as it is (R150). -/
theorem State.stage_inside (s : State) (hi : s.txbyte.toNat < s.cfg.cap) (hj : s.txbit.toNat < 8) :
    s.stage = s.setStaged (s.bitAt s.txbyte.toNat s.txbit.toNat) := by
  unfold State.stage State.memRead State.txIndex State.bitAt
  simp [hi, hj]

/-- Where the transmit cursor names no bit of the buffer, a draw is staged (R155). -/
theorem State.stage_outside (s : State) (h : s.cfg.cap ≤ s.txbyte.toNat ∨ 8 ≤ s.txbit.toNat) : s.stage = s.drawStaged := by
  unfold State.stage State.memRead State.txIndex
  rcases h with h | h
  · simp [Nat.not_lt.mpr h]
  · split
    · simp [Nat.not_lt.mpr h]
    · rfl

/-- Staging writes `STAGED` alone, and counts a draw where it takes one. -/
theorem State.stage_cases (s : State) : (∃ v, s.stage = s.setStaged v) ∨ s.stage = s.drawStaged := by
  by_cases h : s.txbyte.toNat < s.cfg.cap ∧ s.txbit.toNat < 8
  · exact .inl ⟨_, s.stage_inside h.1 h.2⟩
  · exact .inr (s.stage_outside (by omega))

/-! The frames of the operand operations, one lemma per field left unchanged. -/

@[simp] theorem State.advanceSample_cfg (s : State) : s.advanceSample.cfg = s.cfg := by
  rcases s.advanceSample_cases with ⟨-, h⟩ | ⟨-, -, h⟩ | ⟨-, -, h⟩ <;> rw [h] <;> rfl
@[simp] theorem State.advanceSample_txs (s : State) : s.advanceSample.txs = s.txs := by
  rcases s.advanceSample_cases with ⟨-, h⟩ | ⟨-, -, h⟩ | ⟨-, -, h⟩ <;> rw [h] <;> rfl
@[simp] theorem State.advanceSample_txbyte (s : State) : s.advanceSample.txbyte = s.txbyte := by
  rcases s.advanceSample_cases with ⟨-, h⟩ | ⟨-, -, h⟩ | ⟨-, -, h⟩ <;> rw [h] <;> rfl
@[simp] theorem State.advanceSample_txbit (s : State) : s.advanceSample.txbit = s.txbit := by
  rcases s.advanceSample_cases with ⟨-, h⟩ | ⟨-, -, h⟩ | ⟨-, -, h⟩ <;> rw [h] <;> rfl
@[simp] theorem State.advanceSample_staged (s : State) : s.advanceSample.staged = s.staged := by
  rcases s.advanceSample_cases with ⟨-, h⟩ | ⟨-, -, h⟩ | ⟨-, -, h⟩ <;> rw [h] <;> rfl
@[simp] theorem State.advanceSample_edgeIe (s : State) : s.advanceSample.edgeIe = s.edgeIe := by
  rcases s.advanceSample_cases with ⟨-, h⟩ | ⟨-, -, h⟩ | ⟨-, -, h⟩ <;> rw [h] <;> rfl
@[simp] theorem State.advanceSample_edgeIfg (s : State) : s.advanceSample.edgeIfg = s.edgeIfg := by
  rcases s.advanceSample_cases with ⟨-, h⟩ | ⟨-, -, h⟩ | ⟨-, -, h⟩ <;> rw [h] <;> rfl
@[simp] theorem State.advanceSample_txOut (s : State) : s.advanceSample.txOut = s.txOut := by
  rcases s.advanceSample_cases with ⟨-, h⟩ | ⟨-, -, h⟩ | ⟨-, -, h⟩ <;> rw [h] <;> rfl
@[simp] theorem State.advanceSample_buf (s : State) : s.advanceSample.buf = s.buf := by
  rcases s.advanceSample_cases with ⟨-, h⟩ | ⟨-, -, h⟩ | ⟨-, -, h⟩ <;> rw [h] <;> rfl
@[simp] theorem State.advanceSample_inputs (s : State) : s.advanceSample.inputs = s.inputs := by
  rcases s.advanceSample_cases with ⟨-, h⟩ | ⟨-, -, h⟩ | ⟨-, -, h⟩ <;> rw [h] <;> rfl
@[simp] theorem State.advanceSample_hostReads (s : State) : s.advanceSample.hostReads = s.hostReads := by
  rcases s.advanceSample_cases with ⟨-, h⟩ | ⟨-, -, h⟩ | ⟨-, -, h⟩ <;> rw [h] <;> rfl
@[simp] theorem State.advanceSample_draws (s : State) : s.advanceSample.draws = s.draws := by
  rcases s.advanceSample_cases with ⟨-, h⟩ | ⟨-, -, h⟩ | ⟨-, -, h⟩ <;> rw [h] <;> rfl

@[simp] theorem State.stage_cfg (s : State) : s.stage.cfg = s.cfg := by
  rcases s.stage_cases with ⟨v, h⟩ | h <;> rw [h] <;> rfl
@[simp] theorem State.stage_mode (s : State) : s.stage.mode = s.mode := by
  rcases s.stage_cases with ⟨v, h⟩ | h <;> rw [h] <;> rfl
@[simp] theorem State.stage_txs (s : State) : s.stage.txs = s.txs := by
  rcases s.stage_cases with ⟨v, h⟩ | h <;> rw [h] <;> rfl
@[simp] theorem State.stage_sbyte (s : State) : s.stage.sbyte = s.sbyte := by
  rcases s.stage_cases with ⟨v, h⟩ | h <;> rw [h] <;> rfl
@[simp] theorem State.stage_sbit (s : State) : s.stage.sbit = s.sbit := by
  rcases s.stage_cases with ⟨v, h⟩ | h <;> rw [h] <;> rfl
@[simp] theorem State.stage_txbyte (s : State) : s.stage.txbyte = s.txbyte := by
  rcases s.stage_cases with ⟨v, h⟩ | h <;> rw [h] <;> rfl
@[simp] theorem State.stage_txbit (s : State) : s.stage.txbit = s.txbit := by
  rcases s.stage_cases with ⟨v, h⟩ | h <;> rw [h] <;> rfl
@[simp] theorem State.stage_edgeIe (s : State) : s.stage.edgeIe = s.edgeIe := by
  rcases s.stage_cases with ⟨v, h⟩ | h <;> rw [h] <;> rfl
@[simp] theorem State.stage_edgeIfg (s : State) : s.stage.edgeIfg = s.edgeIfg := by
  rcases s.stage_cases with ⟨v, h⟩ | h <;> rw [h] <;> rfl
@[simp] theorem State.stage_tmr (s : State) : s.stage.tmr = s.tmr := by
  rcases s.stage_cases with ⟨v, h⟩ | h <;> rw [h] <;> rfl
@[simp] theorem State.stage_txOut (s : State) : s.stage.txOut = s.txOut := by
  rcases s.stage_cases with ⟨v, h⟩ | h <;> rw [h] <;> rfl
@[simp] theorem State.stage_buf (s : State) : s.stage.buf = s.buf := by
  rcases s.stage_cases with ⟨v, h⟩ | h <;> rw [h] <;> rfl
@[simp] theorem State.stage_inputs (s : State) : s.stage.inputs = s.inputs := by
  rcases s.stage_cases with ⟨v, h⟩ | h <;> rw [h] <;> rfl
@[simp] theorem State.stage_hostReads (s : State) : s.stage.hostReads = s.hostReads := by
  rcases s.stage_cases with ⟨v, h⟩ | h <;> rw [h] <;> rfl

end Sys2Proof.Machine
end

