-- ==== Sys2Proof/Laws/Step.lean ====
section
/-! SUPPORT. What each operation and one step can do, said once: if it answers a next state, then which one. -/

namespace Sys2Proof.Machine

/-- Inside the buffer, a sample replaces one bit of one byte and the cursor advances (R121). -/
theorem State.sample_inside (s : State) (d : Bool) (hi : s.sbyte.toNat < s.cfg.cap) :
    s.sample d = .next (s.setByte s.sbyte.toNat (setBit (s.byteAt s.sbyte.toNat) s.sbit.toNat d)).advanceSample := by
  simp [State.sample, State.memRead, State.memWrite, State.sampleIndex, hi]

/-- Past the buffer's end, a sample has no byte to write (entry 12). -/
theorem State.sample_outside (s : State) (d : Bool) (hi : s.cfg.cap ≤ s.sbyte.toNat) :
    s.sample d = .fault (.bufferIndex (s.key (Instr.tickSmp d).word)) := by
  simp [State.sample, State.memRead, State.sampleIndex, Nat.not_lt.mpr hi]

theorem execEsvc_next (s t : State) (h : execEsvc s = .next t) : s.enabled .esvc = true ∧ t = s.arm := by
  obtain ⟨-, he, hb⟩ := s.serve_next t .esvc _ h
  cases hb
  exact ⟨he, rfl⟩

theorem execTickSmp_next (d : Bool) (s t : State) (h : execTickSmp d s = .next t) :
    s.mode = .sampling ∧ s.enabled .tick = true ∧ s.sbyte.toNat < s.cfg.cap ∧
      t = (s.setByte s.sbyte.toNat (setBit (s.byteAt s.sbyte.toNat) s.sbit.toNat d)).advanceSample := by
  obtain ⟨hm, he, hb⟩ := s.serve_next t (.tickSmp d) _ h
  by_cases hi : s.sbyte.toNat < s.cfg.cap
  · rw [s.sample_inside d hi] at hb
    cases hb
    exact ⟨hm, he, hi, rfl⟩
  · rw [s.sample_outside d (Nat.not_lt.mp hi)] at hb
    cases hb

theorem execTickTxStart_next (d : Bool) (s t : State) (h : execTickTxStart d s = .next t) :
    s.mode = .transmitting ∧ s.txs = .start ∧ s.enabled .tick = true ∧ t = s.sendStart := by
  obtain ⟨⟨hm, hx⟩, he, hb⟩ := s.serve_next t (.tickTxStart d) _ h
  cases hb
  exact ⟨hm, hx, he, rfl⟩

theorem execTickTxData_next (d : Bool) (s t : State) (h : execTickTxData d s = .next t) :
    s.mode = .transmitting ∧ s.txs = .data ∧ s.enabled .tick = true ∧ t = s.sendData := by
  obtain ⟨⟨hm, hx⟩, he, hb⟩ := s.serve_next t (.tickTxData d) _ h
  cases hb
  exact ⟨hm, hx, he, rfl⟩

theorem execTickTxStop_next (d : Bool) (s t : State) (h : execTickTxStop d s = .next t) :
    s.mode = .transmitting ∧ s.txs = .stop ∧ s.enabled .tick = true ∧ t = s.sendStop := by
  obtain ⟨⟨hm, hx⟩, he, hb⟩ := s.serve_next t (.tickTxStop d) _ h
  cases hb
  exact ⟨hm, hx, he, rfl⟩

theorem execHandoff_next (s t : State) (h : execHandoff s = .next t) :
    s.mode = .armed ∧ t = s.startTransmission ∨ s.mode ≠ .armed ∧ t = s := by
  unfold execHandoff at h
  split at h <;> cases h
  · rename_i hm; exact .inl ⟨hm, rfl⟩
  · rename_i hm; exact .inr ⟨hm, rfl⟩

/-! The frames of the transmit ticks. -/

/-- The transmit cursor and sub-state after a data tick, and the level it drives (R150). -/
theorem State.sendData_cursor (s : State) :
    s.sendData.txOut = s.staged ∧
      (s.txbit = 8 → s.sendData.txbyte = s.txbyte + 1 ∧ s.sendData.txbit = 1 ∧ s.sendData.txs = .stop) ∧
      (s.txbit ≠ 8 → s.sendData.txbyte = s.txbyte ∧ s.sendData.txbit = s.txbit + 1 ∧ s.sendData.txs = s.txs) := by
  unfold State.sendData
  refine ⟨?_, fun h => ?_, fun h => ?_⟩
  · simp only
    split <;> simp
  · simp [h]
  · have h' : ¬ s.txbit = 8#4 := h
    simp [h']

/-- What a data tick stages before the last bit of a byte (R150). -/
theorem State.sendData_staged_within (s : State) (hi : s.txbyte.toNat < s.cfg.cap) (hj : s.txbit.toNat < 8) :
    s.sendData.staged = s.bitAt s.txbyte.toNat s.txbit.toNat ∧ s.sendData.draws = s.draws := by
  have h8 : s.txbit ≠ 8 := fun h => by simp [h] at hj
  unfold State.sendData
  simp only [State.drive_txbit, h8, if_false]
  rw [State.stage_inside _ (by simpa using hi) (by simpa using hj)]
  exact ⟨rfl, rfl⟩

/-- What a data tick stages at the end of a byte that is not the last: bit 0 of the next byte (R150). -/
theorem State.sendData_staged_next (s : State) (hi : (s.txbyte + 1).toNat < s.cfg.cap) (h8 : s.txbit = 8) :
    s.sendData.staged = s.bitAt (s.txbyte + 1).toNat 0 ∧ s.sendData.draws = s.draws := by
  unfold State.sendData
  simp only [State.drive_txbit, h8, if_true]
  rw [State.stage_inside _ (by simpa using hi) (by simp)]
  exact ⟨rfl, rfl⟩

/-- What a data tick stages at the end of the last byte: a draw (R155). -/
theorem State.sendData_staged_end (s : State) (hi : s.cfg.cap ≤ (s.txbyte + 1).toNat) (h8 : s.txbit = 8) :
    s.sendData.staged = Config.drawStaged s.draws ∧ s.sendData.draws = s.draws + 1 := by
  unfold State.sendData
  simp only [State.drive_txbit, h8, if_true]
  rw [State.stage_outside _ (.inl (by simpa using hi))]
  exact ⟨rfl, rfl⟩

@[simp] theorem State.sendData_cfg (s : State) : s.sendData.cfg = s.cfg := by
  unfold State.sendData; simp only; split <;> simp
@[simp] theorem State.sendData_mode (s : State) : s.sendData.mode = s.mode := by
  unfold State.sendData; simp only; split <;> simp
@[simp] theorem State.sendData_sbyte (s : State) : s.sendData.sbyte = s.sbyte := by
  unfold State.sendData; simp only; split <;> simp
@[simp] theorem State.sendData_sbit (s : State) : s.sendData.sbit = s.sbit := by
  unfold State.sendData; simp only; split <;> simp
@[simp] theorem State.sendData_edgeIe (s : State) : s.sendData.edgeIe = s.edgeIe := by
  unfold State.sendData; simp only; split <;> simp
@[simp] theorem State.sendData_edgeIfg (s : State) : s.sendData.edgeIfg = s.edgeIfg := by
  unfold State.sendData; simp only; split <;> simp
@[simp] theorem State.sendData_tmr (s : State) : s.sendData.tmr = s.tmr := by
  unfold State.sendData; simp only; split <;> simp
@[simp] theorem State.sendData_buf (s : State) : s.sendData.buf = s.buf := by
  unfold State.sendData; simp only; split <;> simp
@[simp] theorem State.sendData_inputs (s : State) : s.sendData.inputs = s.inputs := by
  unfold State.sendData; simp only; split <;> simp
@[simp] theorem State.sendData_hostReads (s : State) : s.sendData.hostReads = s.hostReads := by
  unfold State.sendData; simp only; split <;> simp

@[simp] theorem State.sendStop_cfg (s : State) : s.sendStop.cfg = s.cfg := by
  unfold State.sendStop; simp only; split <;> rfl
@[simp] theorem State.sendStop_txbyte (s : State) : s.sendStop.txbyte = s.txbyte := by
  unfold State.sendStop; simp only; split <;> rfl
@[simp] theorem State.sendStop_txbit (s : State) : s.sendStop.txbit = s.txbit := by
  unfold State.sendStop; simp only; split <;> rfl
@[simp] theorem State.sendStop_staged (s : State) : s.sendStop.staged = s.staged := by
  unfold State.sendStop; simp only; split <;> rfl
@[simp] theorem State.sendStop_buf (s : State) : s.sendStop.buf = s.buf := by
  unfold State.sendStop; simp only; split <;> rfl
@[simp] theorem State.sendStop_inputs (s : State) : s.sendStop.inputs = s.inputs := by
  unfold State.sendStop; simp only; split <;> rfl
@[simp] theorem State.sendStop_hostReads (s : State) : s.sendStop.hostReads = s.hostReads := by
  unfold State.sendStop; simp only; split <;> rfl
@[simp] theorem State.sendStop_draws (s : State) : s.sendStop.draws = s.draws := by
  unfold State.sendStop; simp only; split <;> rfl

@[simp] theorem State.sendStop_txOut (s : State) : s.sendStop.txOut = true := by
  unfold State.sendStop; simp only; split <;> rfl

@[simp] theorem State.sendStop_txs (s : State) : s.sendStop.txs = .start := by
  unfold State.sendStop; simp only; split <;> rfl

/-- After the last byte a stop tick completes the cycle (R160). -/
theorem State.sendStop_of_eq (s : State) (h : s.txbyte.toNat = s.cfg.cap) :
    s.sendStop = ((s.drive true).setTxs .start).finishCycle := by
  unfold State.sendStop State.txIndex
  simp [h]

/-- Before the last byte a stop tick ends a frame alone (R160). -/
theorem State.sendStop_of_ne (s : State) (h : s.txbyte.toNat ≠ s.cfg.cap) : s.sendStop = (s.drive true).setTxs .start := by
  unfold State.sendStop State.txIndex
  simp [h]

/-- An operation never touches the configuration or the queue. -/
theorem exec_cfg_inputs (i : Instr) (s t : State) (h : exec i s = .next t) : t.cfg = s.cfg ∧ t.inputs = s.inputs := by
  cases i with
  | reset => cases h; exact ⟨rfl, rfl⟩
  | edge => cases h; exact ⟨rfl, rfl⟩
  | esvc => obtain ⟨-, rfl⟩ := execEsvc_next _ _ h; exact ⟨rfl, rfl⟩
  | tickSmp d => obtain ⟨-, -, -, rfl⟩ := execTickSmp_next _ _ _ h; simp
  | tickTxStart d => obtain ⟨-, -, -, rfl⟩ := execTickTxStart_next _ _ _ h; exact ⟨rfl, rfl⟩
  | tickTxData d => obtain ⟨-, -, -, rfl⟩ := execTickTxData_next _ _ _ h; simp
  | tickTxStop d => obtain ⟨-, -, -, rfl⟩ := execTickTxStop_next _ _ _ h; simp
  | handoff => obtain ⟨-, rfl⟩ | ⟨-, rfl⟩ := execHandoff_next _ _ h <;> exact ⟨rfl, rfl⟩
  | status => cases h; exact ⟨rfl, rfl⟩

/-- A step that answers a next state ran a selected operation, or performed a host access that is no event. -/
theorem step_next (s t : State) (h : step s = .next t) :
    s.cfg.wf = true ∧
      ((s.nextStimulus.eventWord = none ∧ t = s.taken.hostAccess s.nextStimulus) ∨
        ∃ i : Instr, s.nextStimulus.eventWord = some i.word ∧ i.Selected s.mode s.txs ∧ exec i s.taken = .next t) := by
  unfold step at h
  split at h
  · rename_i hc
    refine ⟨hc, ?_⟩
    split at h
    · rename_i hw
      cases h
      exact .inl ⟨hw, rfl⟩
    · rename_i ew hw
      split at h
      · rename_i i hi
        obtain ⟨rfl, hs⟩ := (decodeFields_ok_iff _ _ _ _).mp hi
        exact .inr ⟨i, hw, hs, h⟩
      · exact absurd h (s.taken.stopped_ne_next t ew _)
  · cases h

/-- With an admitted configuration, the operation whose word is presented and whose row matches is the one that runs. -/
theorem step_of_selected (s : State) (i : Instr) (hc : s.cfg.wf = true) (hw : s.nextStimulus.eventWord = some i.word)
    (hs : i.Selected s.mode s.txs) : step s = exec i s.taken := by
  unfold step
  rw [if_pos hc, hw]
  simp only [(decodeFields_ok_iff i.word s.mode s.txs i).mpr ⟨rfl, hs⟩]

end Sys2Proof.Machine
end

