-- ==== Sys2Proof/Laws/PerInstr.lean ====
section
/-! SUPPORT. Statements made per operation, one lemma per constructor. The family `LegalWord`: an operation's event word is legal
(R78), and its fields are the operation's event and data bit (R73, R74). -/

namespace Sys2Proof.Laws.LegalWord

/-- The event word of an operation is legal and carries its event and its data bit. -/
def Statement (i : Instr) : Prop := EventWord.wf i.word = true ∧ EventWord.fields i.word = some (i.evt, i.dataBit)

theorem reset : Statement .reset := ⟨rfl, rfl⟩
theorem edge : Statement .edge := ⟨rfl, rfl⟩
theorem esvc : Statement .esvc := ⟨rfl, rfl⟩
theorem tickSmp (d : Bool) : Statement (.tickSmp d) := by cases d <;> exact ⟨rfl, rfl⟩
theorem tickTxStart (d : Bool) : Statement (.tickTxStart d) := by cases d <;> exact ⟨rfl, rfl⟩
theorem tickTxData (d : Bool) : Statement (.tickTxData d) := by cases d <;> exact ⟨rfl, rfl⟩
theorem tickTxStop (d : Bool) : Statement (.tickTxStop d) := by cases d <;> exact ⟨rfl, rfl⟩
theorem handoff : Statement .handoff := ⟨rfl, rfl⟩
theorem status : Statement .status := ⟨rfl, rfl⟩

end Sys2Proof.Laws.LegalWord
end

