-- ==== Sys2Proof/Laws/Runs.lean ====
section
/-! SUPPORT. Runs: event words and ticks, the queue as no operation's input, and runs and line traces cut in two. -/

namespace Sys2Proof.Machine

/-- A word with an event and a data bit is the word built from them (R73). -/
theorem fields_eq_word {ew : EventWord} {e : Evt} {d : Bool} : EventWord.fields ew = some (e, d) → ew = mkWord e d := by
  cases d <;> cases e <;> revert ew <;> decide

/-- Only a tick carries a data bit of 1 (R78). -/
theorem fields_dataBit {ew : EventWord} {e : Evt} {d : Bool} : EventWord.fields ew = some (e, d) → e = .tick ∨ d = false := by
  cases d <;> cases e <;> revert ew <;> decide

/-- A stimulus is a tick exactly when it presents a tick's word. -/
theorem Stimulus.isTick_iff (st : Stimulus) : st.isTick = true ↔ ∃ d, st.eventWord = some (mkWord .tick d) := by
  have key : ∀ ew : EventWord, (ew.fields.map Prod.fst == some Evt.tick) = true ↔ ∃ d, ew = mkWord .tick d := by decide
  unfold Stimulus.isTick
  cases st.eventWord with
  | none => simp
  | some ew => simpa using key ew

/-- No operation reads the queue: a next state is the same whatever is queued. -/
theorem exec_inputs (i : Instr) (s t : State) (l : List Stimulus) (h : exec i s = .next t) :
    exec i {s with inputs := l} = .next {t with inputs := l} := by
  cases i with
    | reset => cases h; rfl
    | edge => cases h; rfl
    | esvc =>
      obtain ⟨he, rfl⟩ := execEsvc_next _ _ h
      have : s.mode = .idle := by simp [State.enabled, State.esvcEnabled] at he; exact he.2
      exact State.serve_of { s with inputs := l } .esvc _ this he
    | tickSmp d =>
      obtain ⟨hm, he, hb, rfl⟩ := execTickSmp_next _ _ _ h
      refine ((State.serve_of { s with inputs := l } (.tickSmp d) (State.sample { s with inputs := l } d) hm he).trans
        (State.sample_inside { s with inputs := l } d hb)).trans ?_
      rw [show setBit (State.byteAt { s with inputs := l } (State.sbyte { s with inputs := l }).toNat) (State.sbit { s with inputs := l }).toNat d = setBit (s.byteAt s.sbyte.toNat) s.sbit.toNat d from rfl]
      generalize (setBit (s.byteAt _) _ d) = v at *
      by_cases h7 : s.sbit = 7
      · by_cases hf : (s.sbyte + 1).toNat = s.cfg.cap
        · rw [State.advanceSample_of_full (s.setByte s.sbyte.toNat v) h7 hf]
          exact congrArg _ (State.advanceSample_of_full (State.setByte { s with inputs := l } _ _) h7 hf)
        · rw [State.advanceSample_of_next (s.setByte s.sbyte.toNat v) h7 hf]
          exact congrArg _ (State.advanceSample_of_next (State.setByte { s with inputs := l } _ _) h7 hf)
      · rw [State.advanceSample_of_ne (s.setByte s.sbyte.toNat v) h7]
        exact congrArg _ (State.advanceSample_of_ne (State.setByte { s with inputs := l } _ _) h7)
    | tickTxStart d =>
      obtain ⟨hm, hx, he, rfl⟩ := execTickTxStart_next _ _ _ h
      exact State.serve_of { s with inputs := l } (.tickTxStart d) _ ⟨hm, hx⟩ he
    | tickTxData d =>
      obtain ⟨hm, hx, he, rfl⟩ := execTickTxData_next _ _ _ h
      refine (State.serve_of { s with inputs := l } (.tickTxData d) _ ⟨hm, hx⟩ he).trans ?_
      congr 1
      unfold State.sendData
      simp only
      by_cases h8 : s.txbit = 8#4
      · simp [h8]
        by_cases hb : (s.txbyte+1).toNat < s.cfg.cap
        · rw [State.stage_inside _ (by exact hb) (by simp), State.stage_inside _ (by exact hb) (by simp)]; rfl
        · rw [State.stage_outside _ (.inl (by simpa using hb)), State.stage_outside _ (.inl (by simpa using hb))]; rfl
      · simp [h8]
        by_cases hb : (s.txbyte).toNat < s.cfg.cap ∧ s.txbit.toNat < 8
        · rw [State.stage_inside _ (by exact hb.1) (by exact hb.2), State.stage_inside _ (by exact hb.1) (by exact hb.2)]; rfl
        · have hb' : s.cfg.cap ≤ s.txbyte.toNat ∨ 8 ≤ s.txbit.toNat := by omega
          rw [State.stage_outside _ (by exact hb'), State.stage_outside _ (by exact hb')]; rfl
    | tickTxStop d =>
      obtain ⟨hm, hx, he, rfl⟩ := execTickTxStop_next _ _ _ h
      refine (State.serve_of { s with inputs := l } (.tickTxStop d) _ ⟨hm, hx⟩ he).trans ?_
      by_cases h : s.txbyte.toNat = s.cfg.cap
      · rw [s.sendStop_of_eq h]; exact congrArg _ (State.sendStop_of_eq { s with inputs := l } h)
      · rw [s.sendStop_of_ne h]; exact congrArg _ (State.sendStop_of_ne { s with inputs := l } h)
    | handoff =>
      obtain ⟨hm, rfl⟩ | ⟨hm, rfl⟩ := execHandoff_next _ _ h
      · exact if_pos hm
      · exact if_neg hm
    | status => cases h; rfl

/-- A run that reached a state goes on from it. -/
theorem runSteps_add (n m : Nat) (s t : State) (h : runSteps n s = .next t) : runSteps (n + m) s = runSteps m t := by
  induction n generalizing s with
  | zero => cases h; simp
  | succ n ih =>
    rw [runSteps] at h
    split at h
    · rename_i v hv
      rw [show n + 1 + m = (n + m) + 1 by omega, runSteps, hv]
      exact ih v h
    · cases h
    · cases h

/-- The line trace of a run is that of its first part followed by that of the rest. -/
theorem lineTrace_add (n m : Nat) (s t : State) (h : runSteps n s = .next t) :
    lineTrace (n + m) s = lineTrace n s ++ lineTrace m t := by
  induction n generalizing s with
  | zero => cases h; simp [lineTrace]
  | succ n ih =>
    rw [runSteps] at h
    split at h
    · rename_i v hv
      rw [show n + 1 + m = (n + m) + 1 by omega, lineTrace, lineTrace, hv]
      simp only
      rw [ih v h]
      split <;> simp
    · cases h
    · cases h

end Sys2Proof.Machine
end

