-- ==== Sys2Proof/Tests/Slice0.lean ====
section
/-! SUPPORT. Tests whose expected results are the spec's own (its encodings and its test vectors), and for every statement with
hypotheses a state that meets them together. -/

namespace Sys2Proof.Tests

open Sys2Proof Sys2Proof.Machine

/-! ### States -/

/-- The configuration of 95_test_vectors.md P1: `CAP` = 2, `HEADER` = 0x20. -/
def cfg2 : Config := { cap := 2, header := 0x20#8, sampleHz := 100000, baud := 9600 }

/-- The same with `CAP` = 3. -/
def cfg3 : Config := { cfg2 with cap := 3 }

/-- The largest admitted capacity (R5). -/
def cfg255 : Config := { cfg2 with cap := 255 }

def idle2 : State := { State.reset with cfg := cfg2 }

/-- A capture in progress, cursor (1, j). -/
def sampling2 (j : BitVec 3) : State :=
  { idle2 with mode := .sampling, tmr := .sample, edgeIe := false, edgeIfg := true, sbit := j }

def armed2 : State :=
  { idle2 with mode := .armed, edgeIe := false, edgeIfg := true, sbyte := 2, buf := [(1, 0x4D#8)] }

/-- A transmission in progress, with `BUF` = [0x20, 0x4D]. -/
def tx2 (x : Txs) (i : BitVec 8) (j : BitVec 4) (staged out : Bool) : State :=
  { armed2 with mode := .transmitting, tmr := .bit, txs := x, txbyte := i, txbit := j, staged := staged, txOut := out }

/-- The state with these stimuli queued. -/
def queued (s : State) (l : List Stimulus) : State := { s with inputs := l }

/-- The outcome is a next state with a property. -/
def holds (r : Result) (p : State → Bool) : Bool :=
  match r with
  | .next t => p t
  | .fault _ => false
  | .refused _ => false

/-- The outcome is a fault. -/
def faults (r : Result) (f : Fault) : Bool :=
  match r with
  | .next _ => false
  | .fault g => g == f
  | .refused _ => false

/-- The outcome is a refusal. -/
def refuses (r : Result) (f : Refusal) : Bool :=
  match r with
  | .next _ => false
  | .fault _ => false
  | .refused g => g == f

/-! ### Well-formedness: an ill-formed term for each check -/

theorem test_wf_this_hardware : Config.wf Config.thisHardware = true := by decide
theorem test_wf_refuses_small_cap : Config.wf { cfg2 with cap := 1 } = false := by decide
theorem test_wf_refuses_large_cap : Config.wf { cfg2 with cap := 256 } = false := by decide
theorem test_wf_refuses_odd_header : Config.wf { cfg2 with header := 0x21#8 } = false := by decide
theorem test_wf_refuses_reserved_event : EventWord.wf 0xC#4 = false := by decide
theorem test_wf_refuses_edge_with_data_bit : EventWord.wf 0x3#4 = false := by decide
theorem test_wf_refuses_short_capture : Config.captureWf cfg3 [0x01#8] = false := by decide

/-! ### Decoding: words written out bit by bit from R73-R76, as `EVT D MODE TXS` -/

theorem test_decode_reset : decode 0b00001010#8 = .ok .reset := by decide
theorem test_decode_edge : decode 0b00101101#8 = .ok .edge := by decide
theorem test_decode_esvc : decode 0b01000001#8 = .ok .esvc := by decide
theorem test_decode_tick_smp_low : decode 0b01100110#8 = .ok (.tickSmp false) := by decide
theorem test_decode_tick_smp_high : decode 0b01110101#8 = .ok (.tickSmp true) := by decide
theorem test_decode_tick_tx_start : decode 0b01111100#8 = .ok (.tickTxStart true) := by decide
theorem test_decode_tick_tx_data : decode 0b01101101#8 = .ok (.tickTxData false) := by decide
theorem test_decode_tick_tx_stop : decode 0b01111110#8 = .ok (.tickTxStop true) := by decide
theorem test_decode_handoff : decode 0b10000000#8 = .ok .handoff := by decide
theorem test_decode_status : decode 0b10101111#8 = .ok .status := by decide
theorem test_decode_word_at_opcode_table : decodeTableWord 8 0x7D = some (.tickTxData true) := by decide
theorem test_decode_word_no_row : decodeTableWord 8 0xC0 = none := by decide

/-- R79: `ESVC` while ARMED, and a tick while IDLE. -/
theorem test_decode_no_row : decode 0b01001000#8 = .error .esvcNotIdle ∧ decode 0b01100000#8 = .error .tickOutOfCycle := by decide

/-- The key of R75 is laid out `EW`, `MODE`, `TXS` from the top. -/
theorem test_key_layout : mkKey 0x7#4 .sampling .stop = 0b01110110#8 := by decide

/-- R82: the assembly lines, with a comment and with the data bit of a tick left out. -/
theorem test_assemble : assembleLine "TICK 1 ; high" = some 0x7#4 ∧ assembleLine "TICK" = some 0x6#4 ∧ assembleLine "NOP" = none := by
  decide

/-- R83: `SAMPLE8 0x4D` is TICK 1, TICK 0, TICK 1, TICK 1, TICK 0, TICK 0, TICK 1, TICK 0 (95_test_vectors.md P1). -/
theorem test_sample8 : sample8 0x4D#8 =
    [tick true, tick false, tick true, tick true, tick false, tick false, tick true, tick false] := by decide

/-! ### One step of each operation, from 95_test_vectors.md -/

/-- T29: RESET in the middle of a frame. -/
theorem test_reset_midframe : holds (exec .reset (tx2 .data 0 4 false false))
    (fun t => t.statusByte == 0x88#8 && t.sbyte == 1 && t.sbit == 0) = true := by decide

/-- T1: an edge in IDLE. -/
theorem test_edge_in_idle : holds (step (queued idle2 [.word 0x2#4])) (fun t => t.statusByte == 0x98#8) = true := by decide

/-- T3: an edge while TRANSMITTING changes nothing. -/
theorem test_edge_in_cycle : holds (exec .edge (tx2 .data 0 4 false false)) (fun t => t == tx2 .data 0 4 false false) = true := by
  decide

/-- T4: the status after arming. -/
theorem test_esvc_arms : holds (step (queued { idle2 with edgeIfg := true } [.word 0x4#4]))
    (fun t => t.statusByte == 0xB1#8 && t.sbyte == 1 && t.sbit == 0) = true := by decide

/-- T8: a sample clears its bit, and is not ORed. -/
theorem test_sample_clears_bit : holds (step (queued { sampling2 3 with buf := [(1, 0xFF#8)] } [.word 0x6#4]))
    (fun t => t.byteAt 1 == 0xF7#8 && t.sbyte == 1 && t.sbit == 4) = true := by decide

/-- T12: with `CAP` = 255 the byte index does not wrap. -/
theorem test_sample_completes_at_255 : holds (step (queued { sampling2 7 with cfg := cfg255, sbyte := 254 } [.word 0x7#4]))
    (fun t => t.byteAt 254 == 0x80#8 && t.sbyte == 255 && t.sbit == 0 && t.mode == .armed) = true := by decide

/-- T18: the start bit. -/
theorem test_start_tick : holds (step (queued (tx2 .start 0 1 false true) [.word 0x6#4]))
    (fun t => t.txOut == false && t.txs == .data && t.txbyte == 0 && t.txbit == 1 && t.staged == false) = true := by decide

/-- T22: the staged bit goes out before the next one is staged. -/
theorem test_data_tick_drives_staged : holds (step (queued (tx2 .data 0 6 true false) [.word 0x6#4]))
    (fun t => t.txOut == true && t.staged == false && t.txbyte == 0 && t.txbit == 7) = true := by decide

/-- T23: the look-ahead across a byte. -/
theorem test_data_tick_next_byte : holds (step (queued (tx2 .data 0 8 false false) [.word 0x6#4]))
    (fun t => t.txOut == false && t.txs == .stop && t.txbyte == 1 && t.txbit == 1 && t.staged == true) = true := by decide

/-- T25: a stop bit inside the transmission. -/
theorem test_stop_tick : holds (step (queued (tx2 .stop 1 1 true false) [.word 0x6#4]))
    (fun t => t.txOut == true && t.txs == .start && t.mode == .transmitting) = true := by decide

/-- T26: the stop bit that completes the cycle. -/
theorem test_stop_tick_completes : holds (step (queued (tx2 .stop 2 1 true false) [.word 0x6#4]))
    (fun t => t.statusByte == 0x88#8 && t.txs == .start && t.sbyte == 1 && t.sbit == 0) = true := by decide

/-- T14: the status after the hand-off. -/
theorem test_handoff : holds (step (queued armed2 [.word 0x8#4]))
    (fun t => t.statusByte == 0xD3#8 && t.txs == .start && t.txbyte == 0 && t.txbit == 1 && t.staged == false) = true := by decide

/-- T16: a hand-off while SAMPLING is ignored. -/
theorem test_handoff_ignored : holds (exec .handoff (sampling2 4)) (fun t => t == sampling2 4) = true := by decide

/-- T28: the status in the middle of a frame. -/
theorem test_status_midframe : holds (step (queued (tx2 .data 0 1 false false) [.hostRead .status]))
    (fun t => t.hostReads == [0x53#8]) = true := by decide

/-! ### Stops -/

/-- T5, T34: an `ESVC` without a latched edge, a tick with the timer stopped, and one with the reserved setting of `TMR` (R72). -/
theorem test_not_enabled : faults (step (queued idle2 [.word 0x4#4])) (.notEnabled 0x40#8) = true ∧
    faults (step (queued idle2 [.word 0x6#4])) (.notEnabled 0x60#8) = true ∧
    faults (step (queued { sampling2 0 with tmr := .reserved } [.word 0x7#4])) (.notEnabled 0x74#8) = true := by decide

/-- T32, T33: the two faults of R201, with the key they record. -/
theorem test_faults : faults (step (queued (tx2 .reserved 0 1 false true) [.word 0x6#4])) (.reservedTxState 0x6F#8) = true ∧
    faults (step (queued { idle2 with tmr := .sample } [.word 0x6#4])) (.tickOutOfCycle 0x60#8) = true := by decide

/-- T30, T31: illegal event words. -/
theorem test_illegal_words : refuses (step (queued idle2 [.word 0xC#4])) (.illegalEventWord 0xC0#8) = true ∧
    refuses (step (queued idle2 [.word 0x3#4])) (.illegalEventWord 0x30#8) = true := by decide

/-! ### The host's placement -/

theorem test_placed_word_runs : holds (step (State.reset.withFetchWord 8 0x7D)) (fun t => t.mode == .transmitting && t.txbit == 1) = true := by
  decide

/-! ### Witnesses: for each statement with hypotheses, states and operands that meet them together -/

theorem idle2_inv : idle2.Inv := by refine ⟨?_, ?_, ?_, ?_, ?_⟩ <;> decide
theorem sampling2_inv : (sampling2 0).Inv := by refine ⟨?_, ?_, ?_, ?_, ?_⟩ <;> decide
theorem sampling2_last_inv : (sampling2 7).Inv := by refine ⟨?_, ?_, ?_, ?_, ?_⟩ <;> decide
theorem armed2_inv : armed2.Inv := by refine ⟨?_, ?_, ?_, ?_, ?_⟩ <;> decide
theorem tx2_start_inv : (tx2 .start 0 1 false true).Inv := by refine ⟨?_, ?_, ?_, ?_, ?_⟩ <;> decide
theorem tx2_data_inv : (tx2 .data 0 6 true false).Inv := by refine ⟨?_, ?_, ?_, ?_, ?_⟩ <;> decide
theorem tx2_stop_inv : (tx2 .stop 1 1 true false).Inv := by refine ⟨?_, ?_, ?_, ?_, ?_⟩ <;> decide
theorem tx2_last_inv : (tx2 .stop 2 1 true false).Inv := by refine ⟨?_, ?_, ?_, ?_, ?_⟩ <;> decide

theorem witness_StepRunsSelectedOperation : ∃ (s : State) (st : Stimulus) (rest : List Stimulus) (ew : EventWord) (i : Instr),
    s.cfg.wf = true ∧ s.inputs = st :: rest ∧ st.eventWord = some ew ∧ decode (s.key ew) = .ok i :=
  ⟨queued (tx2 .data 0 6 true false) [tick true], tick true, [], 0x7#4, .tickTxData true, by decide, rfl, rfl, rfl⟩

theorem witness_EmptyQueueServicesAnEnabledEvent : State.reset.inputs = [] := rfl

theorem witness_IllegalEventWordsAreRefused :
    (idle2.cfg.wf = true ∧ (queued idle2 [.word 0xC#4]).inputs = [.word 0xC#4] ∧ EventWord.fields 0xC#4 = none) ∧
      (queued idle2 [.word 0xB#4]).inputs = [.word 0xB#4] ∧ EventWord.fields 0xB#4 = none := by decide

/-- The first part in IDLE, in ARMED and with the reserved sub-state; the second part in IDLE, ARMED and TRANSMITTING. -/
theorem witness_UnselectedTicksFault :
    (cfg2.wf = true ∧ (queued { idle2 with tmr := .bit } [tick true]).inputs = [tick true] ∧
        State.enabled { idle2 with tmr := .bit } .tick = true ∧ idle2.mode = .idle) ∧
      (State.enabled { armed2 with tmr := .sample } .tick = true ∧ armed2.mode = .armed) ∧
      ((tx2 .reserved 0 1 false true).enabled .tick = true ∧ (tx2 .reserved 0 1 false true).mode = .transmitting ∧
        (tx2 .reserved 0 1 false true).txs = .reserved) ∧
      idle2.Inv ∧ armed2.Inv ∧ (tx2 .start 0 1 false true).Inv :=
  ⟨by decide, by decide, by decide, idle2_inv, armed2_inv, tx2_start_inv⟩

theorem witness_EventsNotEnabledHaveNoStep :
    (cfg2.wf = true ∧ (queued idle2 [.word 0x4#4]).inputs = [.word 0x4#4] ∧ EventWord.fields 0x4#4 = some (.esvc, false) ∧
        idle2.enabled .esvc = false) ∧
      (sampling2 0).enabled .esvc = false ∧ (EventWord.fields 0x7#4 = some (.tick, true) ∧ idle2.enabled .tick = false) := by
  decide

theorem witness_DecodeOfEncodeIsIdentity : decode 0x7D#8 = .ok (.tickTxData true) := by decide

theorem witness_StatusByteLayout : cfg2.wf = true ∧ (queued idle2 [.hostRead .status]).inputs = [.hostRead .status] ∧
    (queued idle2 [.hostWrite .status 0xFF#8]).inputs = [.hostWrite .status 0xFF#8] := by decide

theorem witness_CommandLocation : cfg2.wf = true ∧
    ((queued armed2 [.hostWrite .cmd 0xFF#8]).inputs = [.hostWrite .cmd 0xFF#8] ∧ (0xFF#8 : Byte).getLsbD 0 = true) ∧
    ((queued armed2 [.hostWrite .cmd 0xFE#8]).inputs = [.hostWrite .cmd 0xFE#8] ∧ (0xFE#8 : Byte).getLsbD 0 = false) ∧
    (queued armed2 [.hostRead .cmd]).inputs = [.hostRead .cmd] := by decide

theorem witness_StatusReturnsStatusByte : (0xAF#8 : Key) &&& 0xF0#8 = 0xA0#8 ∧ armed2.Inv ∧ armed2.mode = .armed :=
  ⟨by decide, armed2_inv, rfl⟩

theorem witness_EdgeLatchesFlag : (sampling2 0).edgeIfg = true := by decide

theorem witness_EsvcArmsSampler : (State.latchEdge idle2).edgeIe = true ∧ (State.latchEdge idle2).edgeIfg = true ∧
    (State.latchEdge idle2).mode = .idle := by decide

theorem witness_SampleTickWritesOneBit : (sampling2 7).mode = .sampling ∧ (sampling2 7).enabled .tick = true ∧
    (sampling2 7).sbyte.toNat < (sampling2 7).cfg.cap ∧ Memory.wf (sampling2 7).cfg (sampling2 7).buf := by decide

/-- A bit inside a byte, the last bit of the last byte, and the last bit of an earlier byte. -/
theorem witness_SampleTickAdvancesCursor :
    (cfg2.wf = true ∧ (sampling2 6).mode = .sampling ∧ (sampling2 6).enabled .tick = true ∧
        (sampling2 6).sbyte.toNat < (sampling2 6).cfg.cap ∧ (sampling2 6).sbit.toNat < 7) ∧
      ((sampling2 7).sbit.toNat = 7 ∧ (sampling2 7).sbyte.toNat + 1 = (sampling2 7).cfg.cap) ∧
      (cfg3.wf = true ∧ (sampling2 7).sbyte.toNat + 1 ≠ cfg3.cap) := by decide

theorem witness_StartTickDrivesLow : ((tx2 .start 0 1 false true).mode = .transmitting ∧ (tx2 .start 0 1 false true).txs = .start ∧
    (tx2 .start 0 1 false true).enabled .tick = true) ∧ (0x7C#8 : Key) &&& 0xEF#8 = 0x6C#8 := by decide

theorem witness_DataTickDrivesStagedBit : ((tx2 .data 0 8 false false).mode = .transmitting ∧ (tx2 .data 0 8 false false).txs = .data ∧
    (tx2 .data 0 8 false false).enabled .tick = true ∧ (tx2 .data 0 8 false false).txbit = 8) ∧
    (tx2 .data 0 7 false false).txbit ≠ 8 := by decide

/-- Inside a byte, at the end of byte 0 and at the end of the last byte. -/
theorem witness_DataTickStagesNextBit : cfg2.wf = true ∧
    ((tx2 .data 1 7 true false).mode = .transmitting ∧ (tx2 .data 1 7 true false).txs = .data ∧
      (tx2 .data 1 7 true false).enabled .tick = true ∧ (tx2 .data 1 7 true false).txbyte.toNat < cfg2.cap ∧
      (tx2 .data 1 7 true false).txbit.toNat < 8) ∧
    ((tx2 .data 0 8 true false).txbyte.toNat + 1 < cfg2.cap ∧ (tx2 .data 0 8 true false).txbit = 8) ∧
    ((tx2 .data 1 8 true false).txbyte.toNat + 1 = cfg2.cap ∧ (tx2 .data 1 8 true false).txbit = 8) := by decide

theorem witness_StopTickEndsFrame : ((tx2 .stop 1 1 true false).mode = .transmitting ∧ (tx2 .stop 1 1 true false).txs = .stop ∧
    (tx2 .stop 1 1 true false).enabled .tick = true ∧ (tx2 .stop 1 1 true false).txbyte.toNat ≠ cfg2.cap) ∧
    (tx2 .stop 2 1 true false).txbyte.toNat = cfg2.cap := by decide

theorem witness_HandoffStartsTransmission : armed2.mode = .armed := rfl

theorem witness_HandoffElsewhereIsIgnored : (sampling2 3).mode ≠ .armed := by decide

theorem witness_ResetEventLeavesResetValues : cfg2.wf = true ∧ Memory.wf cfg2 (tx2 .data 0 4 false false).buf := by decide

theorem witness_NonStoringOperationsKeepBuffer : Instr.handoff ≠ .reset ∧ (∀ d : Bool, Instr.handoff ≠ .tickSmp d) ∧
    ∃ t : State, exec .handoff armed2 = .next t := ⟨by decide, by decide, _, rfl⟩

/-- A byte changed by a sampling tick, and the header byte of a state outside the invariant rewritten by RESET. -/
theorem witness_OnlySamplingTicksAndResetWriteBuffer :
    (∃ t : State, step (queued (sampling2 0) [tick true]) = .next t ∧ t.byteAt 1 ≠ (sampling2 0).byteAt 1) ∧
      ∃ t : State, step (queued { idle2 with buf := [(0, 0xFF#8)] } [.word 0x0#4]) = .next t ∧
        t.byteAt 0 ≠ State.byteAt { idle2 with buf := [(0, 0xFF#8)] } 0 := by
  refine ⟨⟨_, rfl, by decide⟩, ⟨_, rfl, ?_⟩⟩
  show Memory.get cfg2 (drawBytes cfg2 0 (Memory.put cfg2 [(0, 0xFF#8)] 0 0x20#8) 1) 0 ≠ _
  rw [drawBytes_get_outside _ _ _ _ _ (.inl rfl)]
  decide

theorem witness_HeaderIsNeverModified : (sampling2 0).Inv ∧ (∃ t : State, exec (.tickSmp true) (sampling2 0) = .next t) ∧
    (tx2 .start 0 1 false true).Inv ∧ ∃ t : State, step (queued (tx2 .start 0 1 false true) [tick false]) = .next t :=
  ⟨sampling2_inv, ⟨_, rfl⟩, tx2_start_inv, ⟨_, rfl⟩⟩

theorem witness_OnlyDataTicksReadBuffer : (∀ d : Bool, Instr.tickSmp true ≠ .tickTxData d) ∧
    ∃ t : State, exec (.tickSmp true) (sampling2 7) = .next t := ⟨by decide, _, rfl⟩

theorem witness_EveryStepKeepsInvariant : (queued (sampling2 7) [tick true]).Inv ∧
    ∃ t : State, step (queued (sampling2 7) [tick true]) = .next t := ⟨sampling2_last_inv, _, rfl⟩

theorem witness_ReachableStatesSatisfyInvariant : cfg2.wf = true ∧
    Memory.wf cfg2 (queued (tx2 .reserved 9 12 true false) [.word 0x2#4, .word 0x4#4]).buf ∧
    ∃ r : State, exec .reset (queued (tx2 .reserved 9 12 true false) [.word 0x2#4, .word 0x4#4]) = .next r ∧
      ∃ t : State, runSteps 2 r = .next t := ⟨by decide, by decide, _, rfl, _, rfl⟩

theorem witness_EveryStepKeepsCanonicalBuffer : Memory.wf cfg2 (sampling2 7).buf ∧
    ∃ t : State, step (queued (sampling2 7) [tick true]) = .next t := ⟨by decide, _, rfl⟩

/-- The five transitions of R170. -/
theorem witness_ModeChangesFollowTable :
    holds (step (queued idle2.latchEdge [.word 0x4#4])) (fun t => t.mode != idle2.mode) = true ∧
      holds (step (queued (sampling2 7) [tick true])) (fun t => t.mode != .sampling) = true ∧
      holds (step (queued armed2 [.word 0x8#4])) (fun t => t.mode != .armed) = true ∧
      holds (step (queued (tx2 .stop 2 1 true false) [tick true])) (fun t => t.mode != .transmitting) = true ∧
      holds (step (queued (tx2 .stop 1 1 true false) [.word 0x0#4])) (fun t => t.mode != .transmitting) = true := by decide

theorem witness_OneRoleAtATime : (sampling2 0).Inv ∧ decodeTick true .sampling .stop = .ok (.tickSmp true) ∧
    decodeTick true .transmitting .stop = .ok (.tickTxStop true) := ⟨sampling2_inv, rfl, rfl⟩

theorem witness_EnabledEventsNeverFault : (queued (tx2 .data 0 6 true false) [tick true]).Inv ∧
    ∀ ew : EventWord, (queued (tx2 .data 0 6 true false) [tick true]).nextStimulus.eventWord = some ew →
      ∃ (e : Evt) (d : Bool), EventWord.fields ew = some (e, d) ∧ (queued (tx2 .data 0 6 true false) [tick true]).enabled e = true := by
  refine ⟨tx2_data_inv, fun ew h => ?_⟩
  cases h
  exact ⟨.tick, true, rfl, rfl⟩

theorem witness_EdgesDuringCycleAreIgnored : cfg2.wf = true ∧ (sampling2 0).mode ≠ .idle ∧
    (queued (sampling2 0) [.word 0x2#4, .word 0x2#4, tick true]).inputs =
      List.replicate 2 (.word (mkWord .edge false)) ++ [tick true] ∧
    holds (exec (.tickTxStop true) (tx2 .stop 2 1 true false)) (fun _ => true) = true ∧
    (tx2 .stop 2 1 true false).txbyte.toNat = cfg2.cap := by decide

/-- The completing tick of a capture, an `ESVC`, and a stop tick that does not complete. -/
theorem witness_EdgeCommutesWithOtherEvents : (sampling2 7).Inv ∧
    (EventWord.fields 0x7#4 = some (.tick, true) ∧ (sampling2 7).enabled .tick = true ∧
      ¬ (Evt.tick = .tick ∧ (sampling2 7).mode = .transmitting ∧ (sampling2 7).txs = .stop ∧
        (sampling2 7).txbyte.toNat = (sampling2 7).cfg.cap)) ∧
    (EventWord.fields 0x4#4 = some (.esvc, false) ∧ idle2.latchEdge.enabled .esvc = true) ∧
    (tx2 .stop 1 1 true false).Inv ∧ (tx2 .stop 1 1 true false).txbyte.toNat ≠ cfg2.cap :=
  ⟨sampling2_last_inv, by decide, by decide, tx2_stop_inv, by decide⟩

theorem witness_EdgeRacesCompletion : (tx2 .stop 2 1 true false).Inv ∧ (tx2 .stop 2 1 true false).mode = .transmitting ∧
    (tx2 .stop 2 1 true false).txs = .stop ∧ (tx2 .stop 2 1 true false).txbyte.toNat = (tx2 .stop 2 1 true false).cfg.cap :=
  ⟨tx2_last_inv, rfl, rfl, by decide⟩

theorem witness_EveryOtherEnabledPairCommutes : (sampling2 7).Inv ∧ EventWord.fields 0x7#4 = some (.tick, true) ∧
    EventWord.fields 0x8#4 = some (.handoff, false) ∧ (sampling2 7).enabled .tick = true ∧ (sampling2 7).enabled .handoff = true ∧
    Evt.tick ≠ .handoff ∧ Evt.tick ≠ .reset ∧ Evt.handoff ≠ .reset ∧ Evt.tick ≠ .status ∧ Evt.handoff ≠ .status ∧
    ¬ ((Evt.tick = .edge ∨ Evt.handoff = .edge) ∧ (sampling2 7).mode = .transmitting ∧ (sampling2 7).txs = .stop ∧
      (sampling2 7).txbyte.toNat = (sampling2 7).cfg.cap) :=
  ⟨sampling2_last_inv, by decide⟩

/-- A HANDOFF and a tick before the last sample of a capture, a HANDOFF and a tick in a transmission's last stop bit, and an EDGE and
a HANDOFF there. -/
theorem witness_EnabledPairsCommuteOutsideExceptions :
    EventWord.fields 0x8#4 = some (.handoff, false) ∧ EventWord.fields 0x7#4 = some (.tick, true) ∧
      EventWord.fields 0x2#4 = some (.edge, false) ∧
      ((sampling2 0).Inv ∧ (sampling2 0).enabled .handoff = true ∧ (sampling2 0).enabled .tick = true ∧ (sampling2 0).sbit ≠ 7 ∧
        (sampling2 0).mode ≠ .transmitting) ∧
      ((tx2 .stop 2 1 true false).Inv ∧ (tx2 .stop 2 1 true false).enabled .tick = true ∧
        (tx2 .stop 2 1 true false).enabled .handoff = true ∧ (tx2 .stop 2 1 true false).enabled .edge = true ∧
        (tx2 .stop 2 1 true false).mode ≠ .sampling ∧
        ¬ (Evt.edge = .edge ∧ Evt.handoff = .tick ∨ Evt.edge = .tick ∧ Evt.handoff = .edge) ∧
        ¬ (Evt.handoff = .edge ∧ Evt.tick = .tick ∨ Evt.handoff = .tick ∧ Evt.tick = .edge)) :=
  ⟨by decide, by decide, by decide, ⟨sampling2_inv, by decide⟩, ⟨tx2_last_inv, by decide⟩⟩

theorem witness_HandoffRacesCaptureCompletion : (sampling2 7).Inv ∧ (sampling2 7).mode = .sampling ∧ (sampling2 7).sbit = 7 ∧
    (sampling2 7).sbyte.toNat + 1 = (sampling2 7).cfg.cap := ⟨sampling2_last_inv, by decide⟩

/-- Seven ticks of a capture with an edge, a hand-off out of place and a status read between them. -/
def sevenTicks : List Stimulus :=
  [tick true, .word 0x2#4, tick false, tick true, .hostWrite .cmd 0x01#8, tick true, tick false, .hostRead .status, tick false, tick true]

/-- Nineteen ticks of a transmission with other events between them. -/
def nineteenTicks : List Stimulus :=
  (List.replicate 9 (tick true)) ++ [.word 0x2#4, .word 0x8#4] ++ List.replicate 10 (tick false) ++ [.hostRead .cmd, .word 0xA#4]

theorem witness_CaptureStoresSamples : (queued (sampling2 0) (sevenTicks ++ [tick false])).Inv ∧ (sampling2 0).mode = .sampling ∧
    (sampling2 0).sbyte = 1 ∧ (sampling2 0).sbit = 0 ∧ (∀ st ∈ sevenTicks, st.isTick = true ∨ st.isQuiet = true) ∧
    (levels sevenTicks).length + 1 = (cfg2.cap - 1) * 8 ∧
    (queued (sampling2 0) (sevenTicks ++ [tick false])).inputs = sevenTicks ++ tick false :: [] := ⟨sampling2_inv, by decide⟩

theorem witness_TransmissionEmitsFrames :
    (queued armed2 (.hostWrite .cmd 0x01#8 :: nineteenTicks ++ [tick true])).Inv ∧ armed2.mode = .armed ∧
      Stimulus.eventWord (.hostWrite .cmd 0x01#8) = some (mkWord .handoff false) ∧
      (∀ st ∈ nineteenTicks, st.isTick = true ∨ st.isQuiet = true) ∧ (levels nineteenTicks).length + 1 = cfg2.cap * 10 ∧
      (queued armed2 (.hostWrite .cmd 0x01#8 :: nineteenTicks ++ [tick true])).inputs =
        .hostWrite .cmd 0x01#8 :: nineteenTicks ++ tick true :: [] := ⟨armed2_inv, by decide⟩

theorem witness_CaptureTransmissionRoundTrip :
    (queued (sampling2 0) (sevenTicks ++ tick false :: [.word 0x2#4, .hostRead .status] ++ .word 0x8#4 :: nineteenTicks ++
        [tick true])).Inv ∧
      (sampling2 0).mode = .sampling ∧ (sampling2 0).sbyte = 1 ∧ (sampling2 0).sbit = 0 ∧
      (∀ st ∈ sevenTicks, st.isTick = true ∨ st.isQuiet = true) ∧ (levels sevenTicks).length + 1 = (cfg2.cap - 1) * 8 ∧
      (∀ st ∈ [Stimulus.word 0x2#4, .hostRead .status], st.isQuiet = true ∧ st.eventWord ≠ some (mkWord .handoff false)) ∧
      Stimulus.eventWord (.word 0x8#4) = some (mkWord .handoff false) ∧
      (∀ st ∈ nineteenTicks, st.isTick = true ∨ st.isQuiet = true) ∧ (levels nineteenTicks).length + 1 = cfg2.cap * 10 ∧
      (queued (sampling2 0) (sevenTicks ++ tick false :: [.word 0x2#4, .hostRead .status] ++ .word 0x8#4 :: nineteenTicks ++
          [tick true])).inputs =
        sevenTicks ++ tick false :: [.word 0x2#4, .hostRead .status] ++ .word 0x8#4 :: nineteenTicks ++ tick true :: [] :=
  ⟨sampling2_inv, by decide⟩

theorem witness_CaptureOfBytesFillsBuffer : (queued idle2 (arm ++ capture [0x4D#8])).Inv ∧ idle2.mode = .idle ∧
    cfg2.captureWf [0x4D#8] = true ∧ (queued idle2 (arm ++ capture [0x4D#8])).inputs = arm ++ capture [0x4D#8] ++ [] :=
  ⟨idle2_inv, by decide⟩

/-- A tick, an `ESVC`, a RESET and an edge. -/
theorem witness_TicksOfACycleCountDown :
    ((queued (sampling2 7) [tick true]).Inv ∧ (∃ t, step (queued (sampling2 7) [tick true]) = .next t) ∧
        (queued (sampling2 7) [tick true]).nextStimulus.isTick = true) ∧
      ((∃ t, step (queued idle2.latchEdge [.word 0x4#4]) = .next t) ∧
        (queued idle2.latchEdge [.word 0x4#4]).nextStimulus.eventWord = some (mkWord .esvc false)) ∧
      ((∃ t, step (queued armed2 [.word 0x0#4]) = .next t) ∧
        (queued armed2 [.word 0x0#4]).nextStimulus.eventWord = some (mkWord .reset false)) ∧
      (∃ t, step (queued armed2 [.word 0x2#4]) = .next t) ∧ (queued armed2 [.word 0x2#4]).nextStimulus.isTick = false :=
  ⟨⟨sampling2_last_inv, ⟨_, rfl⟩, by decide⟩, ⟨⟨_, rfl⟩, by decide⟩, ⟨⟨_, rfl⟩, by decide⟩, ⟨_, rfl⟩, by decide⟩

/-- A run that completes a cycle with its first tick and then is polled for ever. -/
def polled : Nat → State
  | 0 => tx2 .stop 2 1 true false
  | n + 1 => { State.finishCycle (tx2 .start 2 1 true true) with hostReads := List.replicate n 0x88#8 }

/-- The words of that run. -/
def pollWords : Nat → EventWord
  | 0 => 0x6#4
  | _ + 1 => 0xA#4

theorem polled_run (n : Nat) : step ((polled n).present (pollWords n)) = .next (polled (n + 1)) := by
  cases n with
  | zero => rfl
  | succ n =>
    have hs : (polled (n + 1)).statusByte = 0x88#8 := by
      show (State.finishCycle (tx2 .start 2 1 true true)).statusByte = 0x88#8
      decide
    have h : step ((polled (n + 1)).present (pollWords (n + 1))) = .next ((polled (n + 1)).give (polled (n + 1)).statusByte) :=
      step_of_selected ((polled (n + 1)).present (pollWords (n + 1))) .status (by simp [State.present, polled, State.finishCycle]; decide)
        rfl trivial
    rw [h, hs]
    rfl

theorem witness_FairCyclesEnd : (polled 0).Inv ∧ EventRun polled pollWords ∧ FairTicks polled pollWords ∧ HostDuty polled pollWords :=
  ⟨tx2_last_inv, polled_run, fun n => ⟨n + 1, by omega, .inl rfl⟩,
    fun n => ⟨n + 1, by omega, .inl (by simp [polled, State.finishCycle])⟩⟩

/-- Two transmissions after their last data tick, which differ in `STAGED` and the draws, and two IDLE states that differ in the
transmitter's fields and in a data byte. -/
theorem witness_ObservationsDoNotDependOnDraws :
    ((queued (tx2 .stop 2 1 true false) [tick true]).Inv ∧
        State.Inv { queued (tx2 .stop 2 1 false false) [tick true] with draws := 5 } ∧
        (queued (tx2 .stop 2 1 true false) [tick true]).Agree { queued (tx2 .stop 2 1 false false) [tick true] with draws := 5 } ∧
        (∃ t, step (queued (tx2 .stop 2 1 true false) [tick true]) = .next t)) ∧
      (queued idle2 [.word 0x2#4]).Agree
        { queued idle2 [.word 0x2#4] with txs := .data, txbyte := 7, txbit := 9, staged := true, buf := [(1, 0x4D#8)] } := by
  refine ⟨⟨tx2_last_inv, ?_, ?_, ⟨_, rfl⟩⟩, ?_⟩
  · refine ⟨?_, ?_, ?_, ?_, ?_⟩ <;> decide
  · refine ⟨rfl, rfl, rfl, rfl, rfl, rfl, rfl, rfl, rfl, rfl, fun h => ?_, fun _ i _ => rfl, fun _ => ⟨rfl, rfl, rfl, .inl ?_⟩⟩
    · cases h
    · decide
  · refine ⟨rfl, rfl, rfl, rfl, rfl, rfl, rfl, rfl, rfl, rfl, fun h => ?_, fun h => ?_, fun h => ?_⟩
    · cases h
    · rcases h with h | h <;> cases h
    · cases h

theorem witness_ConfigurationIsFixedAndAdmitted : (∃ t, step (queued armed2 [.word 0x8#4]) = .next t) ∧
    State.cfg { idle2 with cfg := { cfg2 with header := 0x01#8 } } = { cfg2 with header := 0x01#8 } ∧
    Config.wf { cfg2 with header := 0x01#8 } = false := ⟨⟨_, rfl⟩, rfl, by decide⟩

/-- Each access with a next state; a mode other than ARMED; and, in ARMED, each access that is no HANDOFF. -/
theorem witness_HostWritesStateOnlyAtHandoff :
    ((∃ t, step (queued armed2 [.hostRead .status]) = .next t) ∧ Stimulus.eventWord (.hostRead .status) ≠ some (mkWord .handoff false)) ∧
      ((∃ t, step (queued armed2 [.hostRead .cmd]) = .next t) ∧ Stimulus.eventWord (.hostRead .cmd) ≠ some (mkWord .handoff false)) ∧
      ((∃ t, step (queued armed2 [.hostWrite .cmd 0xFE#8]) = .next t) ∧
        Stimulus.eventWord (.hostWrite .cmd 0xFE#8) ≠ some (mkWord .handoff false)) ∧
      ((∃ t, step (queued armed2 [.hostWrite .status 0x01#8]) = .next t) ∧
        Stimulus.eventWord (.hostWrite .status 0x01#8) ≠ some (mkWord .handoff false)) ∧
      (∃ t, step (queued armed2 [.word (mkWord .handoff false)]) = .next t) ∧
      (∃ t, step (queued (sampling2 3) [.hostWrite .cmd 0x01#8]) = .next t) ∧ (sampling2 3).mode ≠ .armed :=
  ⟨⟨⟨_, rfl⟩, by decide⟩, ⟨⟨_, rfl⟩, by decide⟩, ⟨⟨_, rfl⟩, by decide⟩, ⟨⟨_, rfl⟩, by decide⟩, ⟨_, rfl⟩, ⟨_, rfl⟩, by decide⟩

theorem witness_OutputLevelHoldsBetweenTicks :
    holds (step (queued (tx2 .start 0 1 false true) [tick true])) (fun t => t.txOut != true) = true ∧
      holds (step (queued (tx2 .data 0 4 false false) [.word 0x0#4])) (fun t => t.txOut != false) = true := by decide

theorem witness_DataBitIgnoredWhileTransmitting : (tx2 .data 0 6 true false).Inv ∧ (tx2 .data 0 6 true false).mode = .transmitting :=
  ⟨tx2_data_inv, rfl⟩

end Sys2Proof.Tests
end

section
/-! The scope family (00_scope.md): which operation a step runs, where it cannot fault, and the configuration it keeps. -/

namespace Sys2Proof

/-- The admitted configurations, read off the check (R5). -/
theorem Config.wf_iff (c : Config) : c.wf = true ↔ 2 ≤ c.cap ∧ c.cap ≤ 255 ∧ c.header.getLsbD 0 = false := by
  simp only [Config.wf, Bool.and_eq_true, decide_eq_true_eq, Bool.not_eq_true', and_assoc]

namespace Machine

/-! ### What a step depends on -/

/-- A step depends on the next stimulus and on the state that is left when it has been taken, and on nothing else. -/
theorem step_congr {s s' : State} (hn : s.nextStimulus = s'.nextStimulus) (ht : s.taken = s'.taken) : step s = step s' := by
  have hc : s.cfg = s'.cfg := by simpa using congrArg State.cfg ht
  have hm : s.mode = s'.mode := by simpa using congrArg State.mode ht
  have hx : s.txs = s'.txs := by simpa using congrArg State.txs ht
  unfold step
  rw [hn, ht, hc, hm, hx]

/-- A configuration that is not admitted is refused at every step (entry 18). -/
theorem step_of_not_wf (s : State) (h : s.cfg.wf = false) : step s = .refused .configNotAdmitted := by
  simp [step, h]

/-- A stimulus that is no event is a host access, which always completes (R38, R39). -/
theorem step_of_no_event (s : State) (hc : s.cfg.wf = true) (h : s.nextStimulus.eventWord = none) :
    step s = .next (s.taken.hostAccess s.nextStimulus) := by
  simp [step, hc, h]

theorem State.nextStimulus_of_nil (s : State) (h : s.inputs = []) : s.nextStimulus = .word s.drawnWord := by
  simp [State.nextStimulus, h]

/-- With an empty queue the draw of an event is counted and nothing else changes (entry 2). -/
theorem State.taken_of_nil (s : State) (h : s.inputs = []) : s.taken = { s with draws := s.draws + 1 } := by
  simp [State.taken, h]

/-- With nothing queued, a step is that of the drawn word presented alone, one draw counted. -/
theorem step_of_nil (s : State) (h : s.inputs = []) :
    step s = step { s with inputs := [.word s.drawnWord], draws := s.draws + 1 } := by
  refine step_congr (s.nextStimulus_of_nil h) ?_
  rw [s.taken_of_nil h, State.taken_of_cons _ _ _ rfl, ← h]

@[simp] theorem State.hostAccess_cfg (s : State) (st : Stimulus) : (s.hostAccess st).cfg = s.cfg := by
  cases st <;> rfl

/-- No step changes the configuration (R42). -/
theorem step_cfg {s t : State} (h : step s = .next t) : t.cfg = s.cfg := by
  obtain ⟨-, ⟨-, rfl⟩ | ⟨i, -, -, hi⟩⟩ := step_next s t h
  · simp
  · exact (exec_cfg_inputs i s.taken t hi).1.trans s.taken_cfg

/-! ### The drawn event is enabled -/

/-- The listed words are those of events that the table of R205 enables. -/
theorem State.enabled_of_mem_enabledWords (s : State) (ew : EventWord) (h : ew ∈ s.enabledWords) :
    ∃ (e : Evt) (d : Bool), ew.fields = some (e, d) ∧ s.enabled e = true := by
  unfold State.enabledWords at h
  rcases List.mem_append.mp h with h | h
  · rcases List.mem_append.mp h with h | h
    · simp only [List.mem_cons, List.not_mem_nil, or_false] at h
      rcases h with rfl | rfl | rfl | rfl
      · exact ⟨.reset, false, rfl, rfl⟩
      · exact ⟨.edge, false, rfl, rfl⟩
      · exact ⟨.handoff, false, rfl, rfl⟩
      · exact ⟨.status, false, rfl, rfl⟩
    · obtain ⟨he, h⟩ := List.mem_ite_nil_right.mp h
      obtain rfl := List.mem_singleton.mp h
      exact ⟨.esvc, false, rfl, he⟩
  · obtain ⟨he, h⟩ := List.mem_ite_nil_right.mp h
    simp only [List.mem_cons, List.not_mem_nil, or_false] at h
    rcases h with rfl | rfl
    · exact ⟨.tick, false, rfl, he⟩
    · exact ⟨.tick, true, rfl, he⟩

/-- The draw picks one of the listed words: it is taken modulo their number, and the list is never empty. -/
theorem State.drawnWord_mem_enabledWords (s : State) : s.drawnWord ∈ s.enabledWords := by
  have hpos : 0 < s.enabledWords.length := by simp [State.enabledWords]
  have hlt : Config.drawEvent s.draws % s.enabledWords.length < s.enabledWords.length := Nat.mod_lt _ hpos
  unfold State.drawnWord
  rw [List.getD_eq_getElem _ _ hlt]
  exact List.getElem_mem hlt

/-! ### An enabled event has a next state -/

/-- `ESVC` is enabled in IDLE alone (R102). -/
theorem State.mode_of_enabled_esvc (s : State) (he : s.enabled .esvc = true) : s.mode = .idle := by
  simp only [State.enabled, State.esvcEnabled, Bool.and_eq_true, beq_iff_eq] at he
  exact he.2

/-- In a state of the invariant the timer runs only in SAMPLING and in the three sub-states of TRANSMITTING (R176, R177). -/
theorem State.Inv.tick_role {s : State} (h : s.Inv) (he : s.enabled .tick = true) :
    s.mode = .sampling ∨ s.mode = .transmitting ∧ s.txs ≠ .reserved := by
  obtain ⟨-, hidle, -, harmed, htx⟩ := h
  cases hm : s.mode with
  | idle =>
    obtain ⟨hstop, -⟩ := hidle hm
    simp [State.enabled, State.tickEnabled, hstop] at he
  | sampling => exact .inl rfl
  | armed =>
    obtain ⟨hstop, -⟩ := harmed hm
    simp [State.enabled, State.tickEnabled, hstop] at he
  | transmitting =>
    obtain ⟨-, -, -, -, -, hres, -⟩ := htx hm
    exact .inr ⟨rfl, hres⟩

/-- In a state of the invariant an enabled tick selects the operation of the timer's present role (R172). -/
theorem State.Inv.exists_selected_tick {s : State} (h : s.Inv) (he : s.enabled .tick = true) (d : Bool) :
    ∃ i : Instr, mkWord .tick d = i.word ∧ i.evt = .tick ∧ i.Selected s.mode s.txs := by
  rcases h.tick_role he with hm | ⟨hm, hx⟩
  · exact ⟨.tickSmp d, rfl, rfl, hm⟩
  · cases hsub : s.txs with
    | start => exact ⟨.tickTxStart d, rfl, rfl, hm, rfl⟩
    | data => exact ⟨.tickTxData d, rfl, rfl, hm, rfl⟩
    | stop => exact ⟨.tickTxStop d, rfl, rfl, hm, rfl⟩
    | reserved => exact absurd hsub hx

/-- In a state of the invariant every enabled event selects an operation: the keys of R79 need an event that is not enabled. -/
theorem State.Inv.exists_selected {s : State} (h : s.Inv) {ew : EventWord} {e : Evt} {d : Bool} (hf : ew.fields = some (e, d))
    (he : s.enabled e = true) : ∃ i : Instr, ew = i.word ∧ i.evt = e ∧ i.Selected s.mode s.txs := by
  obtain rfl := fields_eq_word hf
  rcases eq_or_ne e .tick with rfl | hne
  · exact h.exists_selected_tick he d
  · obtain rfl : d = false := (fields_dataBit hf).resolve_left hne
    cases e with
    | reset => exact ⟨.reset, rfl, rfl, trivial⟩
    | edge => exact ⟨.edge, rfl, rfl, trivial⟩
    | esvc => exact ⟨.esvc, rfl, rfl, s.mode_of_enabled_esvc he⟩
    | tick => exact absurd rfl hne
    | handoff => exact ⟨.handoff, rfl, rfl, trivial⟩
    | status => exact ⟨.status, rfl, rfl, trivial⟩

theorem State.Inv.cfg_wf {s : State} (h : s.Inv) : s.cfg.wf = true := h.1.1

/-- In a state of the invariant the sample cursor of a capture in progress names a byte of the buffer (R56). -/
theorem State.Inv.sbyte_lt_cap {s : State} (h : s.Inv) (hm : s.mode = .sampling) : s.sbyte.toNat < s.cfg.cap := by
  obtain ⟨hcap, -⟩ := s.cfg.wf_iff.mp h.cfg_wf
  obtain ⟨-, -, hsampling, -⟩ := h
  obtain ⟨-, -, -, -, hle, -⟩ := hsampling hm
  omega

/-- A selected and enabled operation has a next state, where the cursor of a capture names a byte of the buffer. -/
theorem exec_completes (i : Instr) (s : State) (hs : i.Selected s.mode s.txs) (he : s.enabled i.evt = true)
    (hb : s.mode = .sampling → s.sbyte.toNat < s.cfg.cap) : ∃ t, exec i s = .next t := by
  cases i with
  | reset => exact ⟨_, rfl⟩
  | edge => exact ⟨_, rfl⟩
  | esvc => exact ⟨_, s.serve_of .esvc _ hs he⟩
  | tickSmp d => exact ⟨_, (s.serve_of (.tickSmp d) _ hs he).trans (s.sample_inside d (hb hs))⟩
  | tickTxStart d => exact ⟨_, s.serve_of (.tickTxStart d) _ hs he⟩
  | tickTxData d => exact ⟨_, s.serve_of (.tickTxData d) _ hs he⟩
  | tickTxStop d => exact ⟨_, s.serve_of (.tickTxStop d) _ hs he⟩
  | handoff =>
    by_cases hm : s.mode = .armed
    · exact ⟨_, if_pos hm⟩
    · exact ⟨_, if_neg hm⟩
  | status => exact ⟨_, rfl⟩

/-! ### The obligations -/

/-- Settles O1: the key is made of the event word and the state's own fields, so decoding it is the step's dispatch. -/
theorem stepRunsSelectedOperation : Obligations.StepRunsSelectedOperation := by
  intro s st rest ew i hc hq hw hk
  rw [State.key, decode_mkKey] at hk
  obtain ⟨rfl, hs⟩ := (decodeFields_ok_iff ew s.mode s.txs i).mp hk
  rw [← s.nextStimulus_of_cons st rest hq] at hw
  rw [step_of_selected s i hc hw hs, s.taken_of_cons st rest hq]

/-- Settles O2: the drawn word is one of those listed as enabled. -/
theorem emptyQueueServicesAnEnabledEvent : Obligations.EmptyQueueServicesAnEnabledEvent := by
  intro s hq
  obtain ⟨e, d, hf, he⟩ := s.enabled_of_mem_enabledWords _ s.drawnWord_mem_enabledWords
  exact ⟨s.drawnWord, e, d, hf, he, step_of_nil s hq⟩

/-- Settles O36: under the invariant an enabled event selects an operation, and a selected, enabled operation completes. -/
theorem enabledEventsNeverFault : Obligations.EnabledEventsNeverFault := by
  intro s hinv hen
  cases hw : s.nextStimulus.eventWord with
  | none => exact ⟨_, step_of_no_event s hinv.cfg_wf hw⟩
  | some ew =>
    obtain ⟨e, d, hf, he⟩ := hen ew hw
    obtain ⟨i, rfl, rfl, hs⟩ := hinv.exists_selected hf he
    rw [step_of_selected s i hinv.cfg_wf hw hs]
    exact exec_completes i s.taken (by simpa using hs) (by simpa using he) (by simpa using hinv.sbyte_lt_cap)

/-- Settles O48: an operation keeps the configuration, as does a host access; the step and the check say the rest. -/
theorem configurationIsFixedAndAdmitted : Obligations.ConfigurationIsFixedAndAdmitted :=
  ⟨fun _ _ => step_cfg, step_of_not_wf, Config.wf_iff⟩

end Machine

end Sys2Proof
end

section
/-! The state family (10_state.md): the host view, the reset values, and what a step may do to the buffer and to `TX_OUT`. -/

namespace Sys2Proof.Machine

/-! ### The host view -/

/-- The fields of a byte laid out as `STATUS` is (R38). -/
theorem statusLayout_fields : ∀ (out ifg ie ready : Bool) (tmr mode : BitVec 2),
    let b : Byte := BitVec.ofBool out ++ tmr ++ BitVec.ofBool ifg ++ BitVec.ofBool ie ++ BitVec.ofBool ready ++ mode
    b.extractLsb' 0 2 = mode ∧ b.getLsbD 2 = ready ∧ b.getLsbD 3 = ie ∧ b.getLsbD 4 = ifg ∧ b.extractLsb' 5 2 = tmr ∧
      b.getLsbD 7 = out := by
  decide

theorem State.ready_eq_decide (s : State) : s.ready = decide (s.mode = .armed) := by
  cases hm : s.mode <;> simp [State.ready, hm]

/-- The step of a queued host access that is no event (R38, R39). -/
theorem step_of_queued_access {s : State} {st : Stimulus} {rest : List Stimulus} (hc : s.cfg.wf = true)
    (hq : s.inputs = st :: rest) (hw : st.eventWord = none) : step s = .next ({ s with inputs := rest }.hostAccess st) := by
  have hnext := s.nextStimulus_of_cons st rest hq
  rw [step_of_no_event s hc (by rw [hnext, hw]), hnext, s.taken_of_cons st rest hq]

/-- The step of a queued stimulus that presents an operation's word where the state selects that operation (R75). -/
theorem step_of_queued_event {s : State} {st : Stimulus} {rest : List Stimulus} (i : Instr) (hc : s.cfg.wf = true)
    (hq : s.inputs = st :: rest) (hw : st.eventWord = some i.word) (hs : i.Selected s.mode s.txs) :
    step s = exec i { s with inputs := rest } := by
  rw [step_of_selected s i hc (by rw [s.nextStimulus_of_cons st rest hq, hw]) hs, s.taken_of_cons st rest hq]

/-! ### A sampling tick -/

/-- The buffer's part of a sampling tick: the level replaces the bit that the sample cursor names (R121). -/
def State.sampled (s : State) (d : Bool) : State :=
  s.setByte s.sbyte.toNat (setBit (s.byteAt s.sbyte.toNat) s.sbit.toNat d)

/-- A sampling tick writes the sample inside the buffer and advances the cursor. -/
theorem execTickSmp_next_sampled {d : Bool} {s t : State} (h : execTickSmp d s = .next t) :
    s.mode = .sampling ∧ s.sbyte.toNat < s.cfg.cap ∧ t = (s.sampled d).advanceSample := by
  obtain ⟨hm, -, hi, ht⟩ := execTickSmp_next d s t h
  exact ⟨hm, hi, ht⟩

theorem State.sampled_bitAt (s : State) (d : Bool) (hw : Memory.wf s.cfg s.buf) (i j : Nat) :
    (s.sampled d).bitAt i j = if i = s.sbyte.toNat ∧ j = s.sbit.toNat then d else s.bitAt i j := by
  unfold State.bitAt State.sampled
  rw [s.byteAt_setByte s.sbyte.toNat i _ hw]
  by_cases hi : i = s.sbyte.toNat
  · simp [hi, setBit_getLsbD _ s.sbit.toNat j d s.sbit.isLt]
  · simp [hi]

theorem State.sampled_byteAt_of_ne (s : State) (d : Bool) {i : Nat} (hi : i ≠ s.sbyte.toNat) :
    (s.sampled d).byteAt i = s.byteAt i :=
  Memory.get_put_ne s.cfg s.buf s.sbyte.toNat i _ hi

theorem State.sampled_advance_buf_wf (s : State) (d : Bool) (hw : Memory.wf s.cfg s.buf) (hi : s.sbyte.toNat < s.cfg.cap) :
    Memory.wf (s.sampled d).advanceSample.cfg (s.sampled d).advanceSample.buf := by
  rw [State.advanceSample_cfg, State.advanceSample_buf]
  exact Memory.put_wf s.cfg s.buf s.sbyte.toNat _ hw hi

/-! ### The buffer -/

/-- The draws of a RESET keep the listed indices strictly rising. -/
theorem drawBytes_rising (c : Config) (n : Nat) (m : Memory) (k : Nat) (hm : m.Pairwise (fun a b => a.1 < b.1)) :
    (drawBytes c n m k).Pairwise (fun a b => a.1 < b.1) := by
  induction k with
  | zero => exact hm
  | succ k ih => exact Memory.put_rising c _ _ _ ih

/-- The draws of a RESET are what the data bytes read as afterwards (R230). -/
theorem drawBytes_get_inside (c : Config) (n : Nat) (m : Memory) (k i : Nat) (hm : m.Pairwise (fun a b => a.1 < b.1))
    (h1 : 1 ≤ i) (hk : i ≤ k) : Memory.get c (drawBytes c n m k) i = Config.drawByte n i := by
  induction k with
  | zero => omega
  | succ k ih =>
    rw [drawBytes]
    by_cases hi : i = k + 1
    · rw [hi]
      exact Memory.get_put_self c _ _ _ (drawBytes_rising c n m k hm)
    · rw [Memory.get_put_ne c _ _ _ _ hi]
      exact ih (by omega)

/-- After a RESET byte 0 is the header (R40, R51). -/
theorem State.powerCycle_byteAt_zero (s : State) (hw : Memory.wf s.cfg s.buf) : s.powerCycle.byteAt 0 = s.cfg.header := by
  unfold State.byteAt
  rw [State.powerCycle_cfg, State.powerCycle_buf, drawBytes_get_outside _ _ _ _ _ (.inl rfl)]
  exact Memory.get_put_self _ _ _ _ hw.1

/-- After a RESET every data byte is its draw (R40, R230). -/
theorem State.powerCycle_byteAt_data (s : State) (hw : Memory.wf s.cfg s.buf) {i : Nat} (h1 : 1 ≤ i) (hi : i < s.cfg.cap) :
    s.powerCycle.byteAt i = Config.drawByte s.draws i := by
  unfold State.byteAt
  rw [State.powerCycle_cfg, State.powerCycle_buf]
  exact drawBytes_get_inside _ _ _ _ i (Memory.put_rising _ _ _ _ hw.1) h1 (by omega)

theorem State.powerCycle_statusByte (s : State) : s.powerCycle.statusByte = 0x88#8 := by
  unfold State.statusByte State.ready
  rw [State.powerCycle_txOut, State.powerCycle_tmr, State.powerCycle_edgeIfg, State.powerCycle_edgeIe, State.powerCycle_mode]
  rfl

theorem State.powerCycle_buf_wf (s : State) (hc : s.cfg.wf = true) (hw : Memory.wf s.cfg s.buf) :
    Memory.wf s.powerCycle.cfg s.powerCycle.buf := by
  obtain ⟨hcap, -⟩ := s.cfg.wf_iff.mp hc
  rw [State.powerCycle_cfg, State.powerCycle_buf]
  exact drawBytes_wf _ _ _ _ (Memory.put_wf _ _ _ _ hw (by omega)) (by omega)

/-- What an operation can do to the buffer: nothing, unless it is a RESET or a sampling tick, which writes the byte that the
cursor names (R50, R60). -/
theorem exec_buf_cases {i : Instr} {s t : State} (h : exec i s = .next t) :
    t.buf = s.buf ∨ (i = .reset ∧ t = s.powerCycle) ∨
      ∃ d, i = .tickSmp d ∧ s.mode = .sampling ∧ s.sbyte.toNat < s.cfg.cap ∧ t = (s.sampled d).advanceSample := by
  cases i with
  | reset => cases h; exact .inr (.inl ⟨rfl, rfl⟩)
  | edge => cases h; exact .inl rfl
  | esvc => obtain ⟨-, rfl⟩ := execEsvc_next s t h; exact .inl rfl
  | tickSmp d =>
    obtain ⟨hm, hi, ht⟩ := execTickSmp_next_sampled h
    exact .inr (.inr ⟨d, rfl, hm, hi, ht⟩)
  | tickTxStart d => obtain ⟨-, -, -, rfl⟩ := execTickTxStart_next d s t h; exact .inl rfl
  | tickTxData d => obtain ⟨-, -, -, rfl⟩ := execTickTxData_next d s t h; exact .inl s.sendData_buf
  | tickTxStop d => obtain ⟨-, -, -, rfl⟩ := execTickTxStop_next d s t h; exact .inl s.sendStop_buf
  | handoff => obtain ⟨-, rfl⟩ | ⟨-, rfl⟩ := execHandoff_next s t h <;> exact .inl rfl
  | status => cases h; exact .inl rfl

@[simp] theorem State.hostAccess_buf (s : State) (st : Stimulus) : (s.hostAccess st).buf = s.buf := by
  cases st <;> rfl

/-- No operation breaks the canonical form. -/
theorem exec_buf_wf {i : Instr} {s t : State} (hc : s.cfg.wf = true) (hw : Memory.wf s.cfg s.buf) (h : exec i s = .next t) :
    Memory.wf t.cfg t.buf := by
  obtain ⟨hcfg, -⟩ := exec_cfg_inputs i s t h
  rcases exec_buf_cases h with hb | ⟨-, rfl⟩ | ⟨d, -, -, hi, rfl⟩
  · rwa [hcfg, hb]
  · exact s.powerCycle_buf_wf hc hw
  · exact s.sampled_advance_buf_wf d hw hi

/-! ### The output level -/

/-- Only a RESET and the transmit ticks write `TX_OUT` (R31). -/
theorem exec_txOut_cases {i : Instr} {s t : State} (h : exec i s = .next t) :
    t.txOut = s.txOut ∨ i = .reset ∨ (i.evt = .tick ∧ s.mode = .transmitting) := by
  cases i with
  | reset => exact .inr (.inl rfl)
  | edge => cases h; exact .inl rfl
  | esvc => obtain ⟨-, rfl⟩ := execEsvc_next s t h; exact .inl rfl
  | tickSmp d => obtain ⟨-, -, -, rfl⟩ := execTickSmp_next d s t h; exact .inl (State.advanceSample_txOut _)
  | tickTxStart d => obtain ⟨hm, -⟩ := execTickTxStart_next d s t h; exact .inr (.inr ⟨rfl, hm⟩)
  | tickTxData d => obtain ⟨hm, -⟩ := execTickTxData_next d s t h; exact .inr (.inr ⟨rfl, hm⟩)
  | tickTxStop d => obtain ⟨hm, -⟩ := execTickTxStop_next d s t h; exact .inr (.inr ⟨rfl, hm⟩)
  | handoff => obtain ⟨-, rfl⟩ | ⟨-, rfl⟩ := execHandoff_next s t h <;> exact .inl rfl
  | status => cases h; exact .inl rfl

@[simp] theorem State.hostAccess_txOut (s : State) (st : Stimulus) : (s.hostAccess st).txOut = s.txOut := by
  cases st <;> rfl

/-- A stimulus that presents the word of a tick's operation is a tick (R73). -/
theorem Stimulus.isTick_of_word {st : Stimulus} {i : Instr} (hw : st.eventWord = some i.word) (he : i.evt = .tick) :
    st.isTick = true :=
  st.isTick_iff.mpr ⟨i.dataBit, by rw [hw, Instr.word, he]⟩

/-! ### The obligations -/

/-- Settles O24: the values are those RESET writes, and the data bytes read as its draws. -/
theorem resetEventLeavesResetValues : Obligations.ResetEventLeavesResetValues := fun s _ hw =>
  ⟨s.powerCycle, rfl, rfl, rfl, rfl, rfl, rfl, rfl, rfl, s.powerCycle_byteAt_zero hw, s.powerCycle_statusByte,
    fun _ => s.powerCycle_byteAt_data hw, rfl, rfl, rfl, rfl, rfl, rfl, rfl, rfl⟩

/-- Settles O33: a host access leaves the buffer, and no operation breaks its form. -/
theorem everyStepKeepsCanonicalBuffer : Obligations.EveryStepKeepsCanonicalBuffer := by
  intro s t hw ht
  obtain ⟨hc, ⟨-, rfl⟩ | ⟨i, -, -, hx⟩⟩ := step_next s t ht
  · simpa using hw
  · exact exec_buf_wf (by simpa using hc) (by simpa using hw) hx

/-- Settles O50: a step that changes `TX_OUT` ran an operation that writes it, and its word is the stimulus. -/
theorem outputLevelHoldsBetweenTicks : Obligations.OutputLevelHoldsBetweenTicks := by
  intro s t ht hne
  obtain ⟨-, ⟨-, rfl⟩ | ⟨i, hw, -, hx⟩⟩ := step_next s t ht
  · exact absurd (by simp) hne
  · rcases exec_txOut_cases hx with hout | rfl | ⟨he, hm⟩
    · exact absurd (by simpa using hout) hne
    · exact .inr hw
    · exact .inl ⟨by simpa using hm, Stimulus.isTick_of_word hw he⟩

/-- Settles O11: the layout holds for every value of the fields; a read of offset 0 is the event STATUS and a write to it no event. -/
theorem statusByteLayout : Obligations.StatusByteLayout := by
  refine ⟨fun s => ?_, fun s rest hc => ⟨fun hq => ?_, fun v hq => ?_⟩⟩
  · rw [← s.ready_eq_decide]
    exact statusLayout_fields s.txOut s.edgeIfg s.edgeIe s.ready s.tmr.bits s.mode.bits
  · exact step_of_queued_event .status hc hq rfl trivial
  · exact step_of_queued_access hc hq rfl

/-- Settles O12: bit 0 alone makes a write of `CMD` the event HANDOFF; the other accesses are no events. -/
theorem commandLocation : Obligations.CommandLocation := by
  refine fun s v rest hc => ⟨fun hq hv => ?_, fun hq hv => ?_, fun hq => ?_⟩
  · exact step_of_queued_event .handoff hc hq (if_pos hv) trivial
  · exact step_of_queued_access hc hq (if_neg (by rw [hv]; exact Bool.false_ne_true))
  · exact step_of_queued_access hc hq rfl

/-- Settles O25: the reset state is a literal, and its configuration is admitted. -/
theorem resetStateHoldsResetValues : Obligations.ResetStateHoldsResetValues :=
  ⟨rfl, rfl, rfl, rfl, rfl, rfl, rfl, rfl, rfl, rfl, rfl⟩

end Sys2Proof.Machine
end

section
/-! The state family (10_state.md): the draws of RESET and of the staged read reach no observation (R40, R155). -/

namespace Sys2Proof.Machine

/-! ### The parts of agreement -/

/-- The fields in which states that agree are equal in every mode. -/
structure State.SameVisible (s t : State) : Prop where
  cfg : s.cfg = t.cfg
  mode : s.mode = t.mode
  sbyte : s.sbyte = t.sbyte
  sbit : s.sbit = t.sbit
  edgeIe : s.edgeIe = t.edgeIe
  edgeIfg : s.edgeIfg = t.edgeIfg
  tmr : s.tmr = t.tmr
  txOut : s.txOut = t.txOut
  inputs : s.inputs = t.inputs
  hostReads : s.hostReads = t.hostReads

/-- The first `n` data bits in the order a capture writes them (R53, R125) are equal. -/
def State.SameBits (n : Nat) (s t : State) : Prop :=
  ∀ i j, 1 ≤ i → j < 8 → (i - 1) * 8 + j < n → s.bitAt i j = t.bitAt i j

/-- Every byte of the buffer is equal. -/
def State.SameBytes (s t : State) : Prop := ∀ i, i < s.cfg.cap → s.byteAt i = t.byteAt i

/-- The transmitter's fields are equal, but for `STAGED` after the last data tick (R155). -/
structure State.SameTx (s t : State) : Prop where
  txs : s.txs = t.txs
  txbyte : s.txbyte = t.txbyte
  txbit : s.txbit = t.txbit
  staged : s.txs = .stop ∧ s.txbyte.toNat = s.cfg.cap ∨ s.staged = t.staged

/-- Agreement is equality of the visible fields and, by mode, of the bits captured so far, of the buffer, and of the
transmitter's fields. -/
theorem State.agree_iff (s t : State) :
    s.Agree t ↔ s.SameVisible t ∧ (s.mode = .sampling → State.SameBits s.captured s t) ∧
      (s.mode = .armed ∨ s.mode = .transmitting → s.SameBytes t) ∧ (s.mode = .transmitting → s.SameTx t) := by
  constructor
  · rintro ⟨h1, h2, h3, h4, h5, h6, h7, h8, h9, h10, hbits, hbytes, htx⟩
    refine ⟨⟨h1, h2, h3, h4, h5, h6, h7, h8, h9, h10⟩, hbits, hbytes, fun hm => ?_⟩
    obtain ⟨hx, hi, hj, hv⟩ := htx hm
    exact ⟨hx, hi, hj, hv⟩
  · rintro ⟨⟨h1, h2, h3, h4, h5, h6, h7, h8, h9, h10⟩, hbits, hbytes, htx⟩
    exact ⟨h1, h2, h3, h4, h5, h6, h7, h8, h9, h10, hbits, hbytes,
      fun hm => ⟨(htx hm).txs, (htx hm).txbyte, (htx hm).txbit, (htx hm).staged⟩⟩

section
variable {s s' t t' : State}

theorem State.Agree.visible (h : s.Agree s') : s.SameVisible s' := ((s.agree_iff s').mp h).1

theorem State.Agree.bits (h : s.Agree s') (hm : s.mode = .sampling) : State.SameBits s.captured s s' := by
  obtain ⟨-, hbits, -⟩ := (s.agree_iff s').mp h
  exact hbits hm

theorem State.Agree.bytes (h : s.Agree s') (hm : s.mode = .armed ∨ s.mode = .transmitting) : s.SameBytes s' := by
  obtain ⟨-, -, hbytes, -⟩ := (s.agree_iff s').mp h
  exact hbytes hm

theorem State.Agree.tx (h : s.Agree s') (hm : s.mode = .transmitting) : s.SameTx s' := by
  obtain ⟨-, -, -, htx⟩ := (s.agree_iff s').mp h
  exact htx hm

theorem State.SameVisible.agree_of_idle (h : s.SameVisible s') (hm : s.mode = .idle) : s.Agree s' :=
  (s.agree_iff s').mpr ⟨h, by simp [hm], by simp [hm], by simp [hm]⟩

theorem State.SameVisible.agree_of_sampling (h : s.SameVisible s') (hm : s.mode = .sampling)
    (hb : State.SameBits s.captured s s') : s.Agree s' :=
  (s.agree_iff s').mpr ⟨h, fun _ => hb, by simp [hm], by simp [hm]⟩

theorem State.SameVisible.agree_of_armed (h : s.SameVisible s') (hm : s.mode = .armed) (hb : s.SameBytes s') : s.Agree s' :=
  (s.agree_iff s').mpr ⟨h, by simp [hm], fun _ => hb, by simp [hm]⟩

theorem State.SameVisible.agree_of_transmitting (h : s.SameVisible s') (hm : s.mode = .transmitting) (hb : s.SameBytes s')
    (hx : s.SameTx s') : s.Agree s' :=
  (s.agree_iff s').mpr ⟨h, by simp [hm], fun _ => hb, fun _ => hx⟩

/-! ### What the visible fields determine -/

theorem State.SameVisible.statusByte (h : s.SameVisible s') : s.statusByte = s'.statusByte := by
  simp [State.statusByte, State.ready, h.mode, h.edgeIe, h.edgeIfg, h.tmr, h.txOut]

theorem State.SameVisible.enabled (h : s.SameVisible s') (e : Evt) : s.enabled e = s'.enabled e := by
  cases e <;> simp [State.enabled, State.esvcEnabled, State.tickEnabled, h.mode, h.edgeIe, h.edgeIfg, h.tmr]

theorem State.SameVisible.hostReadValue (h : s.SameVisible s') (l : HostLoc) : s.hostReadValue l = s'.hostReadValue l := by
  cases l with
  | status => exact h.statusByte
  | cmd => rfl

/-- States that agree select the same operations: `TXS` is part of the key only while TRANSMITTING (R76). -/
theorem State.Agree.selected (h : s.Agree s') {i : Instr} (hs : i.Selected s.mode s.txs) : i.Selected s'.mode s'.txs := by
  rw [← h.visible.mode]
  by_cases hm : s.mode = .transmitting
  · rwa [← (h.tx hm).txs]
  · cases i with
    | reset | edge | handoff | status => trivial
    | esvc | tickSmp => exact hs
    | tickTxStart | tickTxData | tickTxStop => exact absurd hs.1 hm

/-! ### The updates keep the visible fields equal -/

theorem State.SameVisible.latchEdge (h : s.SameVisible s') : s.latchEdge.SameVisible s'.latchEdge :=
  { h with edgeIfg := rfl }

theorem State.SameVisible.arm (h : s.SameVisible s') : s.arm.SameVisible s'.arm :=
  { h with edgeIe := rfl, tmr := rfl, mode := rfl }

theorem State.SameVisible.give (h : s.SameVisible s') {v v' : Byte} (hv : v = v') : (s.give v).SameVisible (s'.give v') :=
  { h with hostReads := by simp [h.hostReads, hv] }

theorem State.SameVisible.powerCycle (h : s.SameVisible s') : s.powerCycle.SameVisible s'.powerCycle :=
  { h with mode := rfl, sbyte := rfl, sbit := rfl, edgeIe := rfl, edgeIfg := rfl, tmr := rfl, txOut := rfl }

theorem State.SameVisible.sampleCursor (h : s.SameVisible s') {i i' : BitVec 8} {j j' : BitVec 3} (hi : i = i') (hj : j = j') :
    (s.sampleCursor i j).SameVisible (s'.sampleCursor i' j') :=
  { h with sbyte := hi, sbit := hj }

theorem State.SameVisible.finishCapture (h : s.SameVisible s') : s.finishCapture.SameVisible s'.finishCapture :=
  { h with tmr := rfl, mode := rfl }

theorem State.SameVisible.startTransmission (h : s.SameVisible s') :
    s.startTransmission.SameVisible s'.startTransmission :=
  { h with mode := rfl, tmr := rfl }

theorem State.SameVisible.drive_setTxs (h : s.SameVisible s') (v : Bool) (x : Txs) :
    ((s.drive v).setTxs x).SameVisible ((s'.drive v).setTxs x) :=
  { h with txOut := rfl }

theorem State.SameVisible.finishCycle (h : s.SameVisible s') : s.finishCycle.SameVisible s'.finishCycle :=
  { h with tmr := rfl, sbyte := rfl, sbit := rfl, mode := rfl, edgeIfg := rfl, edgeIe := rfl }

/-- A data tick drives the staged bit, which must be equal for the levels to be. -/
theorem State.SameVisible.sendData (h : s.SameVisible s') (hv : s.staged = s'.staged) :
    s.sendData.SameVisible s'.sendData where
  cfg := by simpa using h.cfg
  mode := by simpa using h.mode
  sbyte := by simpa using h.sbyte
  sbit := by simpa using h.sbit
  edgeIe := by simpa using h.edgeIe
  edgeIfg := by simpa using h.edgeIfg
  tmr := by simpa using h.tmr
  txOut := s.sendData_cursor.1.trans (hv.trans s'.sendData_cursor.1.symm)
  inputs := by simpa using h.inputs
  hostReads := by simpa using h.hostReads

/-! ### Agreement under the operations that keep the mode -/

theorem State.Agree.latchEdge (h : s.Agree s') : s.latchEdge.Agree s'.latchEdge :=
  (State.agree_iff _ _).mpr ⟨h.visible.latchEdge, h.bits, h.bytes, fun hm => { h.tx hm with }⟩

theorem State.Agree.give (h : s.Agree s') {v v' : Byte} (hv : v = v') : (s.give v).Agree (s'.give v') :=
  (State.agree_iff _ _).mpr ⟨h.visible.give hv, h.bits, h.bytes, fun hm => { h.tx hm with }⟩

theorem State.Agree.hostAccess (h : s.Agree s') (st : Stimulus) : (s.hostAccess st).Agree (s'.hostAccess st) := by
  cases st with
  | word ew => exact h
  | hostRead l => exact h.give (h.visible.hostReadValue l)
  | hostWrite l v => exact h

/-- Taking the same queued stimulus keeps agreement. -/
theorem State.Agree.taken (h : s.Agree s') {st : Stimulus} {rest : List Stimulus} (hq : s.inputs = st :: rest) :
    s.taken.Agree s'.taken := by
  rw [s.taken_of_cons st rest hq, s'.taken_of_cons st rest (h.visible.inputs ▸ hq)]
  exact (State.agree_iff _ _).mpr ⟨{ h.visible with inputs := rfl }, h.bits, h.bytes, fun hm => { h.tx hm with }⟩

/-! ### A sampling tick -/

theorem State.SameVisible.sampled (h : s.SameVisible s') (d : Bool) : (s.sampled d).SameVisible (s'.sampled d) :=
  { h with }

/-- The three ways of the cursor keep the visible fields equal. -/
theorem State.SameVisible.advanceSample (h : s.SameVisible s') : s.advanceSample.SameVisible s'.advanceSample := by
  have hnext : s.sbyte + 1 = s'.sbyte + 1 := by rw [h.sbyte]
  rcases s.advanceSample_cases with ⟨h7, ht⟩ | ⟨h7, hf, ht⟩ | ⟨h7, hf, ht⟩ <;> rw [ht]
  · rw [s'.advanceSample_of_ne (h.sbit ▸ h7)]
    exact h.sampleCursor h.sbyte (by rw [h.sbit])
  · rw [s'.advanceSample_of_full (h.sbit ▸ h7) (by rw [← hnext, ← h.cfg, hf])]
    exact (h.sampleCursor hnext rfl).finishCapture
  · rw [s'.advanceSample_of_next (h.sbit ▸ h7) (by rwa [← hnext, ← h.cfg])]
    exact h.sampleCursor hnext rfl

/-- The capture counts one more bit after a tick (R125). -/
theorem State.advanceSample_captured (s : State) (h1 : 1 ≤ s.sbyte.toNat) (h255 : s.sbyte.toNat < 255) :
    s.advanceSample.captured = s.captured + 1 := by
  have hbyte : (s.sbyte + 1).toNat = s.sbyte.toNat + 1 := by bv_omega
  have hlast : s.sbit = 7 → s.sbit.toNat = 7 := fun h => by rw [h]; rfl
  have hbit : s.sbit ≠ 7 → (s.sbit + 1).toNat = s.sbit.toNat + 1 := fun h => by bv_omega
  have hcarry : (s.sbyte.toNat + 1 - 1) * 8 + (0 : BitVec 3).toNat = (s.sbyte.toNat - 1) * 8 + 7 + 1 := by
    rw [show (0 : BitVec 3).toNat = 0 from rfl]
    omega
  unfold State.captured
  rcases s.advanceSample_cases with ⟨h7, h⟩ | ⟨h7, -, h⟩ | ⟨h7, -, h⟩ <;> rw [h]
  · rw [State.sampleCursor_sbyte, State.sampleCursor_sbit, hbit h7, Nat.add_assoc]
  · rw [State.finishCapture_sbyte, State.finishCapture_sbit, State.sampleCursor_sbyte, State.sampleCursor_sbit, hbyte, hlast h7,
      hcarry]
  · rw [State.sampleCursor_sbyte, State.sampleCursor_sbit, hbyte, hlast h7, hcarry]

/-- A tick that completes the capture has counted all its bits (R124, R125). -/
theorem State.finished_captured (s : State) (hf : (s.sbyte + 1).toNat = s.cfg.cap) :
    (s.sampleCursor (s.sbyte + 1) 0).finishCapture.captured = s.cfg.captureBits :=
  congrArg (fun n => (n - 1) * 8) hf

/-- Writing the same level at the same cursor makes one more captured bit equal. -/
theorem State.SameBits.sampled (h : State.SameBits s.captured s s') (hv : s.SameVisible s') (d : Bool)
    (hw : Memory.wf s.cfg s.buf) (hw' : Memory.wf s'.cfg s'.buf) (h1 : 1 ≤ s.sbyte.toNat) :
    State.SameBits (s.captured + 1) (s.sampled d) (s'.sampled d) := by
  intro i j hi hj hn
  rw [s.sampled_bitAt d hw, s'.sampled_bitAt d hw', ← hv.sbyte, ← hv.sbit]
  by_cases hc : i = s.sbyte.toNat ∧ j = s.sbit.toNat
  · rw [if_pos hc, if_pos hc]
  · rw [if_neg hc, if_neg hc]
    have hbit : s.sbit.toNat < 8 := s.sbit.isLt
    refine h i j hi hj ?_
    unfold State.captured at hn ⊢
    omega

/-- Where the header and every data bit are equal, every byte is. -/
theorem State.SameBits.bytes (h : State.SameBits s.cfg.captureBits s s') (h0 : s.byteAt 0 = s'.byteAt 0) : s.SameBytes s' := by
  intro i hi
  unfold Config.captureBits at h
  rcases Nat.eq_zero_or_pos i with rfl | hpos
  · exact h0
  · exact BitVec.eq_of_getLsbD_eq fun j hj => h i j hpos hj (by omega)

/-- The advance of the cursor moves no bit. -/
theorem State.SameBits.advanceSample {n : Nat} (h : State.SameBits n s s') :
    State.SameBits n s.advanceSample s'.advanceSample := by
  intro i j hi hj hn
  unfold State.bitAt
  rw [State.advanceSample_byteAt, State.advanceSample_byteAt]
  exact h i j hi hj hn

/-- In a state of the invariant a sampling tick leaves the header as it is (R126). -/
theorem State.Inv.sampled_header (hi : s.Inv) (hm : s.mode = .sampling) (d : Bool) : (s.sampled d).byteAt 0 = s.cfg.header := by
  obtain ⟨⟨-, -, hh, -⟩, -, hsampling, -⟩ := hi
  obtain ⟨-, -, -, h1, -⟩ := hsampling hm
  rw [s.sampled_byteAt_of_ne d (by omega), hh]

/-- A sampling tick keeps agreement: the bit it writes is equal, and with the last one the whole buffer is. -/
theorem State.Agree.sampleTick (h : s.Agree s') (hi : s.Inv) (hi' : s'.Inv) (hm : s.mode = .sampling) (d : Bool) :
    (s.sampled d).advanceSample.Agree (s'.sampled d).advanceSample := by
  have hlt : s.sbyte.toNat < s.cfg.cap := hi.sbyte_lt_cap hm
  obtain ⟨-, hcap, -⟩ := s.cfg.wf_iff.mp hi.cfg_wf
  have h0 : (s.sampled d).byteAt 0 = (s'.sampled d).byteAt 0 := by
    rw [hi.sampled_header hm, hi'.sampled_header (h.visible.mode ▸ hm), h.visible.cfg]
  obtain ⟨⟨-, hw, -⟩, -, hsampling, -⟩ := hi
  obtain ⟨⟨-, hw', -⟩, -⟩ := hi'
  obtain ⟨-, -, -, h1, -⟩ := hsampling hm
  have hv := (h.visible.sampled d).advanceSample
  have hcount : (s.sampled d).advanceSample.captured = s.captured + 1 :=
    (s.sampled d).advanceSample_captured h1 (show s.sbyte.toNat < 255 by omega)
  have hbits : State.SameBits (s.sampled d).advanceSample.captured (s.sampled d).advanceSample (s'.sampled d).advanceSample := by
    rw [hcount]
    exact ((h.bits hm).sampled h.visible d hw hw' h1).advanceSample
  rcases (s.sampled d).advanceSample_cases with ⟨-, ht⟩ | ⟨-, hf, ht⟩ | ⟨-, -, ht⟩
  · exact hv.agree_of_sampling (by rw [ht]; exact hm) hbits
  · refine hv.agree_of_armed (by rw [ht]; rfl) (State.SameBits.bytes ?_ (by simpa using h0))
    rwa [State.advanceSample_cfg, ← (s.sampled d).finished_captured hf, ← ht]
  · exact hv.agree_of_sampling (by rw [ht]; exact hm) hbits

/-! ### A hand-off and the transmit ticks -/

theorem State.Agree.startTransmission (h : s.Agree s') (hm : s.mode = .armed) :
    s.startTransmission.Agree s'.startTransmission :=
  h.visible.startTransmission.agree_of_transmitting rfl (h.bytes (.inl hm)) ⟨rfl, rfl, rfl, .inr rfl⟩

theorem State.Agree.sendStart (h : s.Agree s') (hm : s.mode = .transmitting) (hx : s.txs = .start) :
    s.sendStart.Agree s'.sendStart := by
  have htx := h.tx hm
  have hstaged : s.staged = s'.staged := htx.staged.resolve_left (by simp [hx])
  exact (h.visible.drive_setTxs false .data).agree_of_transmitting hm (h.bytes (.inr hm))
    ⟨rfl, htx.txbyte, htx.txbit, .inr hstaged⟩

theorem State.Agree.sendStop (h : s.Agree s') (hm : s.mode = .transmitting) : s.sendStop.Agree s'.sendStop := by
  have htx := h.tx hm
  have hv := h.visible.drive_setTxs true .start
  by_cases hcap : s.txbyte.toNat = s.cfg.cap
  · rw [s.sendStop_of_eq hcap, s'.sendStop_of_eq (by rw [← htx.txbyte, ← h.visible.cfg, hcap])]
    exact hv.finishCycle.agree_of_idle rfl
  · rw [s.sendStop_of_ne hcap, s'.sendStop_of_ne (by rwa [← htx.txbyte, ← h.visible.cfg])]
    have hstaged : s.staged = s'.staged := htx.staged.resolve_left (fun hl => hcap hl.2)
    exact hv.agree_of_transmitting hm (h.bytes (.inr hm)) ⟨rfl, htx.txbyte, htx.txbit, .inr hstaged⟩

theorem State.Agree.bitAt (h : s.Agree s') (hm : s.mode = .transmitting) {i : Nat} (hi : i < s.cfg.cap) (j : Nat) :
    s.bitAt i j = s'.bitAt i j :=
  congrArg (·.getLsbD j) (h.bytes (.inr hm) i hi)

theorem State.Inv.txData (h : s.Inv) (hm : s.mode = .transmitting) (hx : s.txs = .data) : s.TxDataInv := by
  obtain ⟨-, -, -, -, htx⟩ := h
  obtain ⟨-, -, -, -, -, -, -, hdata, -⟩ := htx hm
  exact hdata hx

/-- At the end of a byte both stage bit 0 of the next one, or both a draw that no tick will drive (R150, R155). -/
theorem State.Agree.sendData_sameTx_end (h : s.Agree s') (hi : s.Inv) (hm : s.mode = .transmitting) (hx : s.txs = .data)
    (h8 : s.txbit = 8) : s.sendData.SameTx s'.sendData := by
  have htx := h.tx hm
  have h8' : s'.txbit = 8 := htx.txbit ▸ h8
  obtain ⟨hb, hj, hxs⟩ := s.sendData_cursor.2.1 h8
  obtain ⟨hb', hj', hxs'⟩ := s'.sendData_cursor.2.1 h8'
  refine ⟨hxs.trans hxs'.symm, by rw [hb, hb', htx.txbyte], hj.trans hj'.symm, ?_⟩
  by_cases hnext : (s.txbyte + 1).toNat < s.cfg.cap
  · have hnext' : (s'.txbyte + 1).toNat < s'.cfg.cap := by rwa [← htx.txbyte, ← h.visible.cfg]
    right
    rw [(s.sendData_staged_next hnext h8).1, (s'.sendData_staged_next hnext' h8').1, ← htx.txbyte]
    exact h.bitAt hm hnext 0
  · obtain ⟨hcap2, hcap, -⟩ := s.cfg.wf_iff.mp hi.cfg_wf
    obtain ⟨hle, -⟩ := hi.txData hm hx
    have hsucc : (s.txbyte + 1).toNat = s.txbyte.toNat + 1 := by bv_omega
    have hend : (s.txbyte + 1).toNat = s.cfg.cap := by omega
    exact .inl ⟨hxs, by rw [hb, State.sendData_cfg, hend]⟩

/-- Before the end of a byte both stage its next bit (R150). -/
theorem State.Agree.sendData_sameTx_within (h : s.Agree s') (hi : s.Inv) (hm : s.mode = .transmitting) (hx : s.txs = .data)
    (h8 : s.txbit ≠ 8) : s.sendData.SameTx s'.sendData := by
  have htx := h.tx hm
  obtain ⟨hb, hj, hxs⟩ := s.sendData_cursor.2.2 h8
  obtain ⟨hb', hj', hxs'⟩ := s'.sendData_cursor.2.2 (htx.txbit ▸ h8)
  obtain ⟨hcap, -⟩ := s.cfg.wf_iff.mp hi.cfg_wf
  obtain ⟨hle, -, hhi, -⟩ := hi.txData hm hx
  have hlt : s.txbyte.toNat < s.cfg.cap := by omega
  have hlt' : s'.txbyte.toNat < s'.cfg.cap := by rwa [← htx.txbyte, ← h.visible.cfg]
  have hj8 : s.txbit.toNat < 8 := by bv_omega
  refine ⟨by rw [hxs, hxs', htx.txs], by rw [hb, hb', htx.txbyte], by rw [hj, hj', htx.txbit], .inr ?_⟩
  rw [(s.sendData_staged_within hlt hj8).1, (s'.sendData_staged_within hlt' (htx.txbit ▸ hj8)).1, ← htx.txbyte, ← htx.txbit]
  exact h.bitAt hm hlt _

/-- A data tick drives the bit that both have staged, and stages alike. -/
theorem State.Agree.sendData (h : s.Agree s') (hi : s.Inv) (hm : s.mode = .transmitting) (hx : s.txs = .data) :
    s.sendData.Agree s'.sendData := by
  have hstaged : s.staged = s'.staged := (h.tx hm).staged.resolve_left (by simp [hx])
  refine (h.visible.sendData hstaged).agree_of_transmitting (by simpa using hm) (fun i hlt => ?_) ?_
  · rw [State.byteAt_congr s.sendData_cfg s.sendData_buf, State.byteAt_congr s'.sendData_cfg s'.sendData_buf]
    exact h.bytes (.inr hm) i (by simpa using hlt)
  · by_cases h8 : s.txbit = 8
    · exact h.sendData_sameTx_end hi hm hx h8
    · exact h.sendData_sameTx_within hi hm hx h8

/-! ### Every operation and the step -/

/-- An `ESVC` begins a capture of which no bit is written yet (R103, R176). -/
theorem State.Agree.arm (h : s.Agree s') (hi : s.Inv) (hm : s.mode = .idle) : s.arm.Agree s'.arm := by
  obtain ⟨-, hidle, -⟩ := hi
  obtain ⟨-, -, hbyte, hbit, -⟩ := hidle hm
  have hnone : s.arm.captured = 0 := by simp [State.captured, hbyte, hbit]
  exact h.visible.arm.agree_of_sampling rfl fun i j _ _ hn => by omega

/-- The invariant is about the block alone, so taking a stimulus keeps it. -/
theorem State.Inv.taken (h : s.Inv) : s.taken.Inv := by
  unfold State.taken
  split <;> exact h

/-- A next state says that the operation was selected and its event enabled. -/
theorem exec_next_selected {i : Instr} (h : exec i s = .next t) : i.Selected s.mode s.txs ∧ s.enabled i.evt = true := by
  cases i with
  | reset | edge | handoff | status => exact ⟨trivial, rfl⟩
  | esvc | tickSmp | tickTxStart | tickTxData | tickTxStop =>
    obtain ⟨hs, he, -⟩ := s.serve_next t _ _ h
    exact ⟨hs, he⟩

/-- Where an operation completes in both of two states that agree, the next states agree. -/
theorem State.Agree.exec_next (h : s.Agree s') (hi : s.Inv) (hi' : s'.Inv) {i : Instr} (ht : exec i s = .next t)
    (ht' : exec i s' = .next t') : t.Agree t' := by
  cases i with
  | reset =>
    cases ht; cases ht'
    exact h.visible.powerCycle.agree_of_idle rfl
  | edge =>
    cases ht; cases ht'
    exact h.latchEdge
  | esvc =>
    obtain ⟨he, rfl⟩ := execEsvc_next s t ht
    obtain ⟨-, rfl⟩ := execEsvc_next s' t' ht'
    exact h.arm hi (s.mode_of_enabled_esvc he)
  | tickSmp d =>
    obtain ⟨hm, -, rfl⟩ := execTickSmp_next_sampled ht
    obtain ⟨-, -, rfl⟩ := execTickSmp_next_sampled ht'
    exact h.sampleTick hi hi' hm d
  | tickTxStart d =>
    obtain ⟨hm, hx, -, rfl⟩ := execTickTxStart_next d s t ht
    obtain ⟨-, -, -, rfl⟩ := execTickTxStart_next d s' t' ht'
    exact h.sendStart hm hx
  | tickTxData d =>
    obtain ⟨hm, hx, -, rfl⟩ := execTickTxData_next d s t ht
    obtain ⟨-, -, -, rfl⟩ := execTickTxData_next d s' t' ht'
    exact h.sendData hi hm hx
  | tickTxStop d =>
    obtain ⟨hm, -, -, rfl⟩ := execTickTxStop_next d s t ht
    obtain ⟨-, -, -, rfl⟩ := execTickTxStop_next d s' t' ht'
    exact h.sendStop hm
  | handoff =>
    rcases execHandoff_next s t ht with ⟨hm, rfl⟩ | ⟨hm, rfl⟩ <;>
      rcases execHandoff_next s' t' ht' with ⟨hm', rfl⟩ | ⟨hm', rfl⟩
    · exact h.startTransmission hm
    · exact absurd (h.visible.mode ▸ hm) hm'
    · exact absurd (h.visible.mode ▸ hm') hm
    · exact h
  | status =>
    cases ht; cases ht'
    exact h.give h.visible.statusByte

/-- An operation that completes in one of two states that agree completes in the other, and the next states agree. -/
theorem State.Agree.exec (h : s.Agree s') (hi : s.Inv) (hi' : s'.Inv) {i : Instr} (ht : exec i s = .next t) :
    ∃ t', exec i s' = .next t' ∧ t.Agree t' := by
  obtain ⟨hs, he⟩ := exec_next_selected ht
  obtain ⟨t', ht'⟩ := exec_completes i s' (h.selected hs) (h.visible.enabled i.evt ▸ he) hi'.sbyte_lt_cap
  exact ⟨t', ht', h.exec_next hi hi' ht ht'⟩

/-- On the same queued stimulus, states of the invariant that agree step to states that agree. -/
theorem State.Agree.step (h : s.Agree s') (hi : s.Inv) (hi' : s'.Inv) (hq : s.inputs ≠ []) (ht : step s = .next t) :
    ∃ t', step s' = .next t' ∧ t.Agree t' := by
  obtain ⟨st, rest, hcons⟩ := List.exists_cons_of_ne_nil hq
  have htaken := h.taken hcons
  have hnext : s.nextStimulus = s'.nextStimulus := by
    rw [s.nextStimulus_of_cons st rest hcons, s'.nextStimulus_of_cons st rest (h.visible.inputs ▸ hcons)]
  obtain ⟨-, ⟨hw, rfl⟩ | ⟨i, hw, hs, hx⟩⟩ := step_next s t ht <;> rw [hnext] at hw
  · refine ⟨_, step_of_no_event s' hi'.cfg_wf hw, ?_⟩
    rw [hnext]
    exact htaken.hostAccess _
  · obtain ⟨t', ht', ha⟩ := htaken.exec hi.taken hi'.taken hx
    exact ⟨t', (step_of_selected s' i hi'.cfg_wf hw (h.selected hs)).trans ht', ha⟩

end

/-- Settles O47: agreement is kept by every step, and it fixes `TX_OUT`, the fields of `STATUS` and what the host has read. -/
theorem observationsDoNotDependOnDraws : Obligations.ObservationsDoNotDependOnDraws := by
  intro s s' t hi hi' ha hq ht
  obtain ⟨t', ht', h⟩ := ha.step hi hi' hq ht
  exact ⟨t', ht', h, h.visible.txOut, h.visible.statusByte, h.visible.hostReads⟩

end Sys2Proof.Machine
end

section
/-! The memory family (20_memory.md): what leaves the buffer alone, what reads it, and what a capture stores in it. -/

namespace Sys2Proof.Machine

/-! ### Accesses of the host -/

/-- What the host can present: an access that is no event, a `HANDOFF` or a `STATUS` (R38, R39, R74). -/
def Stimulus.IsHost (st : Stimulus) : Prop :=
  st.eventWord = none ∨ st.eventWord = some (mkWord .handoff false) ∨ st.eventWord = some (mkWord .status false)

theorem Stimulus.isHost_hostRead (l : HostLoc) : (Stimulus.hostRead l).IsHost := by
  cases l with
  | status => exact .inr (.inr rfl)
  | cmd => exact .inl rfl

theorem Stimulus.isHost_hostWrite (l : HostLoc) (v : Byte) : (Stimulus.hostWrite l v).IsHost := by
  cases l with
  | status => exact .inl rfl
  | cmd =>
    cases hv : v.getLsbD 0 with
    | false => exact .inl (if_neg (ne_true_of_eq_false hv))
    | true => exact .inr (.inl (if_pos hv))

/-- An access that is no event adds at most a byte to what the host has read (R39, R59). -/
theorem State.hostAccess_eq (s : State) (st : Stimulus) : ∃ r, s.hostAccess st = { s with hostReads := r } := by
  cases st <;> exact ⟨_, rfl⟩

/-- A queued stimulus of the host leaves the queue and gives the host at most a byte, but for a `HANDOFF` in ARMED, which begins
the transmission (R140, R141, R175). -/
theorem step_of_queued_host {s : State} {st : Stimulus} {rest : List Stimulus} (hc : s.cfg.wf = true)
    (hq : s.inputs = st :: rest) (hst : st.IsHost) :
    (∃ r, step s = .next { s with inputs := rest, hostReads := r }) ∨
      (s.mode = .armed ∧ st.eventWord = some (mkWord .handoff false) ∧
        step s = .next { s with inputs := rest }.startTransmission) := by
  rcases hst with hw | hw | hw
  · obtain ⟨r, hr⟩ := State.hostAccess_eq { s with inputs := rest } st
    exact .inl ⟨r, (step_of_queued_access hc hq hw).trans (congrArg _ hr)⟩
  · have hstep := step_of_queued_event .handoff hc hq hw trivial
    by_cases hm : s.mode = .armed
    · exact .inr ⟨hm, hw, hstep.trans (if_pos hm)⟩
    · exact .inl ⟨s.hostReads, hstep.trans (if_neg hm)⟩
  · exact .inl ⟨_, step_of_queued_event .status hc hq hw trivial⟩

/-! ### What an operation does whatever the buffer holds -/

/-- Where a sampling tick is selected and enabled with its cursor inside the buffer, it writes the sample and advances (R121). -/
theorem execTickSmp_of_inside {s : State} (d : Bool) (hm : s.mode = .sampling) (he : s.enabled .tick = true)
    (hi : s.sbyte.toNat < s.cfg.cap) : execTickSmp d s = .next (s.sampled d).advanceSample :=
  (s.serve_of (.tickSmp d) _ hm he).trans (s.sample_inside d hi)

/-- The cursor's advance does not look at the buffer. -/
theorem State.advanceSample_with_buf (s : State) (m : Memory) :
    State.advanceSample { s with buf := m } = { s.advanceSample with buf := m } := by
  rcases s.advanceSample_cases with ⟨h7, h⟩ | ⟨h7, hf, h⟩ | ⟨h7, hf, h⟩ <;> rw [h]
  · exact State.advanceSample_of_ne { s with buf := m } h7
  · exact State.advanceSample_of_full { s with buf := m } h7 hf
  · exact State.advanceSample_of_next { s with buf := m } h7 hf

/-- A stop tick does not look at the buffer. -/
theorem State.sendStop_with_buf (s : State) (m : Memory) :
    State.sendStop { s with buf := m } = { s.sendStop with buf := m } := by
  by_cases h : s.txbyte.toNat = s.cfg.cap
  · rw [s.sendStop_of_eq h]
    exact State.sendStop_of_eq { s with buf := m } h
  · rw [s.sendStop_of_ne h]
    exact State.sendStop_of_ne { s with buf := m } h

/-- A sampling tick looks at the buffer to write it alone: the other fields are the same whatever it holds. -/
theorem State.sampleTick_with_buf (s : State) (m : Memory) (d : Bool) :
    ∃ m', (State.sampled { s with buf := m } d).advanceSample = { (s.sampled d).advanceSample with buf := m' } :=
  ⟨_, (s.sampled d).advanceSample_with_buf (State.sampled { s with buf := m } d).buf⟩

/-! ### The invariant through a capture -/

/-- In SAMPLING the invariant asks for the common row and the row of SAMPLING alone. -/
theorem State.Inv.of_sampling {s : State} (hc : s.CommonInv) (hm : s.mode = .sampling) (h : s.SamplingInv) : s.Inv :=
  ⟨hc, by simp [hm], fun _ => h, by simp [hm], by simp [hm]⟩

/-- In ARMED the invariant asks for the common row and the row of ARMED alone. -/
theorem State.Inv.of_armed {s : State} (hc : s.CommonInv) (hm : s.mode = .armed) (h : s.ArmedInv) : s.Inv :=
  ⟨hc, by simp [hm], by simp [hm], fun _ => h, by simp [hm]⟩

/-- The row of SAMPLING (R176). -/
theorem State.Inv.sampling {s : State} (h : s.Inv) (hm : s.mode = .sampling) : s.SamplingInv := by
  obtain ⟨-, -, hsampling, -⟩ := h
  exact hsampling hm

/-- The row of ARMED (R176). -/
theorem State.Inv.armed {s : State} (h : s.Inv) (hm : s.mode = .armed) : s.ArmedInv := by
  obtain ⟨-, -, -, harmed, -⟩ := h
  exact harmed hm

/-- In SAMPLING the timer runs (R177). -/
theorem State.Inv.enabled_tick {s : State} (h : s.Inv) (hm : s.mode = .sampling) : s.enabled .tick = true := by
  obtain ⟨ht, -⟩ := h.sampling hm
  simp [State.enabled, State.tickEnabled, ht]

/-- A sampling tick leads to SAMPLING or to ARMED (R170). -/
theorem State.sampled_advance_mode (s : State) (hm : s.mode = .sampling) (d : Bool) :
    (s.sampled d).advanceSample.mode = .sampling ∨ (s.sampled d).advanceSample.mode = .armed := by
  rcases (s.sampled d).advanceSample_cases with ⟨-, h⟩ | ⟨-, -, h⟩ | ⟨-, -, h⟩ <;> rw [h]
  · exact .inl hm
  · exact .inr rfl
  · exact .inl hm

/-- A sampling tick keeps the invariant: it writes a data byte, and its cursor reaches `CAP` only by completing (R56, R124, R126). -/
theorem State.Inv.sampleTick {s : State} (hi : s.Inv) (hm : s.mode = .sampling) (d : Bool) :
    (s.sampled d).advanceSample.Inv := by
  have hlt := hi.sbyte_lt_cap hm
  obtain ⟨-, hcap, -⟩ := s.cfg.wf_iff.mp hi.cfg_wf
  have hheader := hi.sampled_header hm d
  obtain ⟨htmr, hie, hifg, h1, hle, hout⟩ := hi.sampling hm
  obtain ⟨⟨hc, hw, -⟩, -⟩ := hi
  have hnext : (s.sbyte + 1).toNat = s.sbyte.toNat + 1 := by bv_omega
  have hbuf := s.sampled_advance_buf_wf d hw hlt
  rcases (s.sampled d).advanceSample_cases with ⟨-, h⟩ | ⟨-, hf, h⟩ | ⟨-, hf, h⟩ <;> rw [h] at hbuf ⊢
  · exact .of_sampling ⟨hc, hbuf, hheader, htmr ▸ by decide⟩ hm ⟨htmr, hie, hifg, h1, hle, hout⟩
  · exact .of_armed ⟨hc, hbuf, hheader, Tmr.noConfusion⟩ rfl ⟨rfl, hie, hifg, hf, rfl, hout⟩
  · have hne : (s.sbyte + 1).toNat ≠ s.cfg.cap := hf
    refine .of_sampling ⟨hc, hbuf, hheader, htmr ▸ by decide⟩ hm ⟨htmr, hie, hifg, ?_, ?_, hout⟩
    · show 1 ≤ (s.sbyte + 1).toNat
      omega
    · show (s.sbyte + 1).toNat ≤ s.cfg.cap - 1
      omega

/-- In ARMED the invariant fixes the `STATUS` byte (R38, R176). -/
theorem State.Inv.armed_statusByte {s : State} (h : s.Inv) (hm : s.mode = .armed) : s.statusByte = 0x96#8 := by
  obtain ⟨htmr, hie, hifg, -, -, hout⟩ := h.armed hm
  unfold State.statusByte
  rw [s.ready_eq_decide, hout, htmr, hifg, hie, hm]
  rfl

/-! ### The stimuli of a capture -/

/-- The level of a stimulus is the data bit of a tick's word (R73). -/
theorem Stimulus.level_eq_some_iff (st : Stimulus) (d : Bool) : st.level = some d ↔ st.eventWord = some (mkWord .tick d) := by
  have key : ∀ (ew : EventWord) (d : Bool),
      (Stimulus.word ew).level = some d ↔ ew = mkWord .tick d := by decide
  cases hw : st.eventWord with
  | none => simp [Stimulus.level, hw]
  | some ew =>
    have hl : st.level = (Stimulus.word ew).level := by unfold Stimulus.level; rw [hw]; rfl
    rw [hl, key, Option.some_inj]

/-- A quiet stimulus is an `EDGE` or one of the host's (R244). -/
theorem Stimulus.edge_or_isHost_of_isQuiet {st : Stimulus} (h : st.isQuiet = true) :
    st.eventWord = some (mkWord .edge false) ∨ st.IsHost := by
  unfold Stimulus.isQuiet at h
  cases hw : st.eventWord with
  | none => exact .inr (.inl hw)
  | some ew =>
    simp only [hw, Bool.or_eq_true, beq_iff_eq] at h
    rcases h with (rfl | rfl) | rfl
    · exact .inl rfl
    · exact .inr (.inr (.inl hw))
    · exact .inr (.inr (.inr hw))

/-- A quiet stimulus carries no level. -/
theorem Stimulus.level_of_isQuiet {st : Stimulus} (h : st.isQuiet = true) : st.level = none := by
  unfold Stimulus.level
  rcases Stimulus.edge_or_isHost_of_isQuiet h with hw | hw | hw | hw <;> rw [hw] <;> rfl

/-- The level of a single tick. -/
theorem levels_tick (d : Bool) : levels [tick d] = [d] := by
  cases d <;> rfl

theorem levels_append (l l' : List Stimulus) : levels (l ++ l') = levels l ++ levels l' :=
  List.filterMap_append

/-- In SAMPLING a quiet stimulus gives the host at most a byte: the edge flag is set already, and a hand-off is ignored (R101,
R141, R176). -/
theorem State.Inv.step_quiet {s : State} (hi : s.Inv) (hm : s.mode = .sampling) {st : Stimulus} {rest : List Stimulus}
    (hq : s.inputs = st :: rest) (hst : st.isQuiet = true) :
    ∃ r, step s = .next { s with inputs := rest, hostReads := r } := by
  rcases Stimulus.edge_or_isHost_of_isQuiet hst with hw | hhost
  · obtain ⟨-, -, hifg, -⟩ := hi.sampling hm
    refine ⟨s.hostReads, (step_of_queued_event .edge hi.cfg_wf hq hw trivial).trans ?_⟩
    show Host.Outcome.next { s with inputs := rest, edgeIfg := true } = .next { s with inputs := rest }
    rw [← hifg]
  · rcases step_of_queued_host hi.cfg_wf hq hhost with hr | ⟨harmed, -⟩
    · exact hr
    · exact absurd (hm.symm.trans harmed) (by decide)

/-- In SAMPLING a queued tick stores its level (R120, R121). -/
theorem State.Inv.step_sampleTick {s : State} (hi : s.Inv) (hm : s.mode = .sampling) {st : Stimulus} {rest : List Stimulus}
    (hq : s.inputs = st :: rest) {d : Bool} (hd : st.level = some d) :
    step s = .next (State.sampled { s with inputs := rest } d).advanceSample := by
  have hw := (st.level_eq_some_iff d).mp hd
  exact (step_of_queued_event (.tickSmp d) hi.cfg_wf hq hw hm).trans
    (execTickSmp_of_inside d hm (hi.enabled_tick hm) (hi.sbyte_lt_cap hm))

/-! ### The samples of a capture -/

/-- The samples are in the buffer in capture order: the `n`-th in bit `n mod 8` of byte `1 + n div 8` (R53). -/
def State.Stores (s : State) (ls : List Bool) : Prop :=
  ∀ n, n < ls.length → s.bitAt (1 + n / 8) (n % 8) = ls.getD n false

/-- A capture, in progress or just completed, has taken exactly these samples (R53, R125). -/
structure State.HasCaptured (s : State) (ls : List Bool) : Prop where
  inv : s.Inv
  cycle : s.mode = .sampling ∨ s.mode = .armed
  count : s.captured = ls.length
  stored : s.Stores ls

/-- The sample cursor names the place of the next sample (R53, R125). -/
theorem State.cursor_eq_iff (s : State) (h1 : 1 ≤ s.sbyte.toNat) (n : Nat) :
    (1 + n / 8 = s.sbyte.toNat ∧ n % 8 = s.sbit.toNat) ↔ n = s.captured := by
  have hbit : s.sbit.toNat < 8 := s.sbit.isLt
  unfold State.captured
  omega

/-- Writing the next sample at the cursor adds it to those stored. -/
theorem State.Stores.sampleTick {s : State} {ls : List Bool} (h : s.Stores ls) (hcount : s.captured = ls.length)
    (h1 : 1 ≤ s.sbyte.toNat) (hw : Memory.wf s.cfg s.buf) (d : Bool) : (s.sampled d).advanceSample.Stores (ls ++ [d]) := by
  intro n hn
  rw [List.length_append, List.length_singleton] at hn
  have hbit : (s.sampled d).advanceSample.bitAt (1 + n / 8) (n % 8) = if n = ls.length then d else s.bitAt (1 + n / 8) (n % 8) := by
    unfold State.bitAt
    rw [State.advanceSample_byteAt]
    refine (s.sampled_bitAt d hw _ _).trans ?_
    simp only [s.cursor_eq_iff h1 n, hcount]
    rfl
  rw [hbit]
  by_cases hlast : n = ls.length
  · simp [hlast]
  · have hlt : n < ls.length := by omega
    rw [if_neg hlast, List.getD_append _ _ _ _ hlt]
    exact h n hlt

section
variable {s : State} {ls : List Bool}

/-- While samples are missing the capture is in progress (R124). -/
theorem State.HasCaptured.mode_sampling (h : s.HasCaptured ls) (hlt : ls.length < (s.cfg.cap - 1) * 8) : s.mode = .sampling := by
  refine h.cycle.resolve_right fun hm => ?_
  obtain ⟨-, -, -, hcap, -⟩ := h.inv.armed hm
  have hcount := h.count
  unfold State.captured at hcount
  omega

/-- With the last sample the capture is complete (R124). -/
theorem State.HasCaptured.mode_armed (h : s.HasCaptured ls) (heq : ls.length = (s.cfg.cap - 1) * 8) : s.mode = .armed := by
  refine h.cycle.resolve_left fun hm => ?_
  obtain ⟨-, -, -, h1, hle, -⟩ := h.inv.sampling hm
  have hbit : s.sbit.toNat < 8 := s.sbit.isLt
  have hcount := h.count
  unfold State.captured at hcount
  omega

/-- A sampling tick adds its level to the samples taken. -/
theorem State.HasCaptured.sampleTick (h : s.HasCaptured ls) (hm : s.mode = .sampling) (d : Bool) :
    (s.sampled d).advanceSample.HasCaptured (ls ++ [d]) := by
  have hlt := h.inv.sbyte_lt_cap hm
  obtain ⟨-, hcap, -⟩ := s.cfg.wf_iff.mp h.inv.cfg_wf
  obtain ⟨-, -, -, h1, -⟩ := h.inv.sampling hm
  obtain ⟨⟨-, hw, -⟩, -⟩ := h.inv
  refine ⟨h.inv.sampleTick hm d, s.sampled_advance_mode hm d, ?_, h.stored.sampleTick h.count h1 hw d⟩
  rw [(s.sampled d).advanceSample_captured h1 (show s.sbyte.toNat < 255 by omega), List.length_append, ← h.count]
  rfl

/-- A capture does not depend on the queue or on what the host has read. -/
theorem State.HasCaptured.with_inputs_hostReads (h : s.HasCaptured ls) (l : List Stimulus) (r : List Byte) :
    State.HasCaptured { s with inputs := l, hostReads := r } ls :=
  ⟨h.inv, h.cycle, h.count, h.stored⟩

/-- A stimulus of a capture in progress adds its level, if it carries one, to the samples taken. -/
theorem State.HasCaptured.step (h : s.HasCaptured ls) (hlt : ls.length < (s.cfg.cap - 1) * 8) {st : Stimulus}
    {rest : List Stimulus} (hq : s.inputs = st :: rest) (hst : st.isTick = true ∨ st.isQuiet = true) :
    ∃ t, step s = .next t ∧ t.HasCaptured (ls ++ levels [st]) ∧ t.cfg = s.cfg ∧ t.inputs = rest := by
  have hm := h.mode_sampling hlt
  rcases hst with htick | hquiet
  · obtain ⟨d, hw⟩ := st.isTick_iff.mp htick
    have hd := (st.level_eq_some_iff d).mpr hw
    refine ⟨_, h.inv.step_sampleTick hm hq hd, ?_, by simp [State.sampled], by simp [State.sampled]⟩
    rw [show levels [st] = [d] from List.filterMap_cons_some hd]
    exact (h.with_inputs_hostReads rest s.hostReads).sampleTick hm d
  · obtain ⟨r, hr⟩ := h.inv.step_quiet hm hq hquiet
    refine ⟨_, hr, ?_, rfl, rfl⟩
    rw [show levels [st] = [] from List.filterMap_cons_none (Stimulus.level_of_isQuiet hquiet), List.append_nil]
    exact h.with_inputs_hostReads rest r

end

/-- The stimuli of a capture in progress, one after the other, add their levels in order. -/
theorem State.HasCaptured.run {l rest : List Stimulus} (hl : ∀ st ∈ l, st.isTick = true ∨ st.isQuiet = true) :
    ∀ {s : State} {ls : List Bool}, s.HasCaptured ls → ls.length + (levels l).length < (s.cfg.cap - 1) * 8 →
      s.inputs = l ++ rest →
      ∃ t, runSteps l.length s = .next t ∧ t.HasCaptured (ls ++ levels l) ∧ t.cfg = s.cfg ∧ t.inputs = rest := by
  induction l with
  | nil =>
    intro s ls h _ hq
    exact ⟨s, rfl, by simpa [levels] using h, rfl, hq⟩
  | cons st l ih =>
    intro s ls h hlen hq
    rw [← List.singleton_append, levels_append, List.length_append] at hlen
    obtain ⟨u, hu, hcu, hcfg, hqu⟩ := h.step (by omega) hq (hl st List.mem_cons_self)
    obtain ⟨t, ht, hct, hcfg', hqt⟩ := ih (fun x hx => hl x (List.mem_cons_of_mem _ hx)) hcu
      (by rw [hcfg, List.length_append]; omega) hqu
    refine ⟨t, ?_, ?_, hcfg'.trans hcfg, hqt⟩
    · rw [List.length_cons, runSteps, hu]
      exact ht
    · rw [← List.singleton_append, levels_append, ← List.append_assoc]
      exact hct

/-- A capture whose cursor stands at its start has taken no sample yet (R103). -/
theorem State.Inv.hasCaptured_nil {s : State} (hi : s.Inv) (hm : s.mode = .sampling) (hbyte : s.sbyte = 1) (hbit : s.sbit = 0) :
    s.HasCaptured [] :=
  ⟨hi, .inl hm, by simp [State.captured, hbyte, hbit], fun n hn => absurd hn (Nat.not_lt_zero n)⟩

/-- In the states of the invariant the header is the configuration's, so it is the same wherever the configuration is (R51). -/
theorem State.Inv.byteAt_zero_congr {s t : State} (hs : s.Inv) (ht : t.Inv) (hc : t.cfg = s.cfg) : t.byteAt 0 = s.byteAt 0 := by
  obtain ⟨⟨-, -, hsh, -⟩, -⟩ := hs
  obtain ⟨⟨-, -, hth, -⟩, -⟩ := ht
  rw [hsh, hth, hc]

/-! ### The obligations -/

/-- Settles O26: only a RESET and a sampling tick can do anything to the buffer. -/
theorem nonStoringOperationsKeepBuffer : Obligations.NonStoringOperationsKeepBuffer := by
  intro i s t hreset hsmp ht
  obtain ⟨hcfg, hinputs⟩ := exec_cfg_inputs i s t ht
  have hbuf : t.buf = s.buf := by
    rcases exec_buf_cases ht with hb | ⟨hi, -⟩ | ⟨d, hi, -⟩
    · exact hb
    · exact absurd hi hreset
    · exact absurd hi (hsmp d)
  refine ⟨fun a => ?_, hcfg, hinputs⟩
  have hbyte := State.byteAt_congr hcfg hbuf a
  exact ⟨hbyte, by rw [State.memRead, State.memRead, hcfg, hbyte]⟩

/-- Settles O27: of what an operation can do to the buffer, the sampling tick writes the cursor's byte alone. -/
theorem onlySamplingTicksAndResetWriteBuffer : Obligations.OnlySamplingTicksAndResetWriteBuffer := by
  intro s t a ht hne
  obtain ⟨-, ⟨-, rfl⟩ | ⟨i, hw, -, hx⟩⟩ := step_next s t ht
  · exact absurd (State.byteAt_congr (by simp) (by simp) a) hne
  · obtain ⟨hcfg, -⟩ := exec_cfg_inputs i s.taken t hx
    rcases exec_buf_cases hx with hbuf | ⟨rfl, -⟩ | ⟨d, rfl, hm, -, rfl⟩
    · exact absurd (State.byteAt_congr (hcfg.trans s.taken_cfg) (hbuf.trans s.taken_buf) a) hne
    · exact .inr hw
    · refine .inl ⟨by simpa using hm, Stimulus.isTick_of_word hw rfl, ?_⟩
      by_contra ha
      refine hne ?_
      rw [State.advanceSample_byteAt, s.taken.sampled_byteAt_of_ne d (by simpa using ha), s.taken_byteAt]

/-- Settles O29: selection and enabling do not look at the buffer, and neither does any operation's effect on the other fields;
a sampling tick reads the byte it writes, but only to write it. -/
theorem onlyDataTicksReadBuffer : Obligations.OnlyDataTicksReadBuffer := by
  intro i s t m hdata ht
  cases i with
  | reset | edge | status => cases ht; exact ⟨_, rfl⟩
  | esvc =>
    obtain ⟨he, rfl⟩ := execEsvc_next s t ht
    exact ⟨m, State.serve_of { s with buf := m } .esvc _ (s.mode_of_enabled_esvc he) he⟩
  | tickSmp d =>
    obtain ⟨hm, he, hi, rfl⟩ := execTickSmp_next d s t ht
    obtain ⟨m', hm'⟩ := s.sampleTick_with_buf m d
    exact ⟨m', (execTickSmp_of_inside (s := { s with buf := m }) d hm he hi).trans (congrArg _ hm')⟩
  | tickTxStart d =>
    obtain ⟨hm, hx, he, rfl⟩ := execTickTxStart_next d s t ht
    exact ⟨m, State.serve_of { s with buf := m } (.tickTxStart d) _ ⟨hm, hx⟩ he⟩
  | tickTxData d => exact absurd rfl (hdata d)
  | tickTxStop d =>
    obtain ⟨hm, hx, he, rfl⟩ := execTickTxStop_next d s t ht
    exact ⟨m, (State.serve_of { s with buf := m } (.tickTxStop d) _ ⟨hm, hx⟩ he).trans
      (congrArg _ (s.sendStop_with_buf m))⟩
  | handoff =>
    obtain ⟨hm, rfl⟩ | ⟨hm, rfl⟩ := execHandoff_next s t ht
    · exact ⟨m, if_pos hm⟩
    · exact ⟨m, if_neg hm⟩

/-- Settles O49: an access of the host leaves the block as it is or, as a HANDOFF in ARMED, begins the transmission. -/
theorem hostWritesStateOnlyAtHandoff : Obligations.HostWritesStateOnlyAtHandoff := by
  intro s t st rest hst hq ht
  have hhost : st.IsHost := by
    rcases hst with ⟨l, rfl⟩ | ⟨l, v, rfl⟩ | rfl | rfl
    · exact Stimulus.isHost_hostRead l
    · exact Stimulus.isHost_hostWrite l v
    · exact .inr (.inl rfl)
    · exact .inr (.inr rfl)
  obtain ⟨hc, -⟩ := step_next s t ht
  rcases step_of_queued_host hc hq hhost with ⟨r, hr⟩ | ⟨hm, hw, hr⟩ <;> cases ht.symm.trans hr
  · exact ⟨rfl, fun _ => rfl, fun _ => rfl⟩
  · refine ⟨rfl, fun _ => rfl, ?_⟩
    rintro (h | h)
    · exact absurd hm h
    · exact absurd hw h

/-- Settles O41: by induction on the stimuli, each adds its level to the samples taken; the last tick completes the capture. -/
theorem captureStoresSamples : Obligations.CaptureStoresSamples := by
  intro s l d rest hi hm hbyte hbit hl hlen hq
  have hstart := hi.hasCaptured_nil hm hbyte hbit
  refine ⟨?_, fun k hk => ?_⟩
  · obtain ⟨u, hu, hcu, hcfg, hqu⟩ := State.HasCaptured.run hl hstart (by simp; omega) hq
    obtain ⟨t, ht, hct, hcfg', hqt⟩ := hcu.step (by rw [hcfg, List.nil_append]; omega) hqu
      (.inl ((tick d).isTick_iff.mpr ⟨d, rfl⟩))
    rw [List.nil_append, levels_tick] at hct
    have hcfg'' := hcfg'.trans hcfg
    have hall : (levels l ++ [d]).length = (s.cfg.cap - 1) * 8 := by simpa using hlen
    have harmed := hct.mode_armed (by rw [hcfg'', hall])
    obtain ⟨htmr, -, -, hcap, hzero, -⟩ := hct.inv.armed harmed
    refine ⟨t, ?_, harmed, htmr, hcfg'' ▸ hcap, hzero, hct.inv.armed_statusByte harmed, hqt,
      hi.byteAt_zero_congr hct.inv hcfg'', fun n hn => hct.stored n (by rwa [hall])⟩
    rw [runSteps_add l.length 1 s u hu, runSteps, ht]
    rfl
  · have hsub : (levels (l.take k)).length ≤ (levels l).length := ((List.take_sublist k l).filterMap _).length_le
    have hrest : s.inputs = l.take k ++ (l.drop k ++ tick d :: rest) := by
      rw [hq, ← List.append_assoc, List.take_append_drop]
    obtain ⟨u, hu, hcu, hcfg, -⟩ := State.HasCaptured.run (fun st hst => hl st (List.mem_of_mem_take hst)) hstart
      (by simp; omega) hrest
    rw [List.length_take_of_le hk] at hu
    rw [List.nil_append] at hcu
    exact ⟨u, hu, hcu.mode_sampling (by rw [hcfg]; omega), hcu.count⟩

end Sys2Proof.Machine
end

section
/-! The encoding family (30_encoding.md): the decoder, the encoder and the opcode table, the illegal words, the data bit of a transmit
tick, and the stimuli of ARM and CAPTURE. -/

namespace Sys2Proof

/-! ### Fields and keys -/

@[simp] theorem Mode.ofBits_bits (m : Mode) : Mode.ofBits m.bits = m := by
  cases m <;> rfl

@[simp] theorem Txs.ofBits_bits (x : Txs) : Txs.ofBits x.bits = x := by
  cases x <;> rfl

@[simp] theorem Evt.ofBits_bits (e : Evt) : Evt.ofBits e.bits = some e := by
  cases e <;> rfl

@[simp] theorem Mode.bits_ofBits : ∀ b : BitVec 2, (Mode.ofBits b).bits = b := by
  decide

@[simp] theorem Txs.bits_ofBits : ∀ b : BitVec 2, (Txs.ofBits b).bits = b := by
  decide

/-- The sub-states that the rules write (R71). -/
theorem Txs.eq_of_ne_reserved {x : Txs} (h : x ≠ .reserved) : x = .start ∨ x = .data ∨ x = .stop := by
  cases x with
  | start | data | stop => simp
  | reserved => exact absurd rfl h

/-- A key is made of its three fields (R75). -/
theorem mkKey_fields (k : Key) : mkKey (keyWord k) (keyMode k) (keyTxs k) = k := by
  unfold mkKey keyWord keyMode keyTxs
  have hhigh : k.extractLsb' 4 4 ++ k.extractLsb' 2 2 = k.extractLsb' 2 6 :=
    BitVec.extractLsb'_append_extractLsb'_eq_extractLsb' rfl
  have hall : k.extractLsb' 2 6 ++ k.extractLsb' 0 2 = k.extractLsb' 0 8 :=
    BitVec.extractLsb'_append_extractLsb'_eq_extractLsb' rfl
  rw [Mode.bits_ofBits, Txs.bits_ofBits, hhigh, hall, BitVec.extractLsb'_eq_self]

/-- What holds of every key made of three fields holds of every key (R75). -/
theorem forall_key_of_fields {p : Key → Prop} (h : ∀ (ew : EventWord) (m : Mode) (x : Txs), p (mkKey ew m x)) (k : Key) : p k :=
  mkKey_fields k ▸ h (keyWord k) (keyMode k) (keyTxs k)

/-! ### The encoder and the decoder -/

/-- A key decodes to an operation exactly when the bits that the operation fixes have its values (R76). -/
theorem decode_ok_iff_pattern (k : Key) (i : Instr) : decode k = .ok i ↔ k &&& i.keyMask = i.keyBits := by
  revert k
  refine forall_key_of_fields fun ew m x => ?_
  rw [decode_mkKey]
  cases i with
  | reset | edge | esvc | handoff | status => cases m <;> cases x <;> revert ew <;> decide
  | tickSmp d | tickTxStart d | tickTxData d | tickTxStop d => cases d <;> cases m <;> cases x <;> revert ew <;> decide

/-- The values of an operation's key lie on the bits that it fixes (R76). -/
theorem Instr.keyBits_and_keyMask (i : Instr) : i.keyBits &&& i.keyMask = i.keyBits := by
  cases i with
  | reset | edge | esvc | handoff | status => rfl
  | tickSmp d | tickTxStart d | tickTxData d | tickTxStop d => cases d <;> rfl

/-- The don't-care bits do not reach the bits that the operation fixes. -/
theorem encode_and_keyMask (i : Instr) (fill : Key) : encode i fill &&& i.keyMask = i.keyBits := by
  unfold encode
  rw [BitVec.and_or_distrib_right, i.keyBits_and_keyMask, BitVec.and_assoc, BitVec.and_comm (~~~ i.keyMask),
    BitVec.and_not_self]
  simp

/-- A key with an operation's values on the bits that it fixes is an encoding of it: the other bits are its own. -/
theorem encode_of_pattern {k : Key} {i : Instr} (h : k &&& i.keyMask = i.keyBits) : encode i k = k := by
  unfold encode
  rw [← h, ← BitVec.and_or_distrib_left, BitVec.or_not_self, BitVec.and_allOnes]

/-! ### The opcode table -/

/-- The bit of a key that carries an operation's operand: `DK[4]`, read by the ticks alone (R75, R77). -/
def Instr.operandMask (i : Instr) : Key := if i.evt = .tick then 0x10#8 else 0x00#8

/-- The row of an operation: what it fixes but for its operand (R76). -/
def Instr.row (i : Instr) : TableRow :=
  ⟨i.mnemonic, i.keyBits &&& ~~~ i.operandMask, i.keyMask &&& ~~~ i.operandMask⟩

/-- The table has one row with an operation's mnemonic, the operation's row. -/
theorem opcodeTable_filter_mnemonic (i : Instr) : opcodeTable.filter (fun r => r.mnemonic = i.mnemonic) = [i.row] := by
  cases i with
  | reset | edge | esvc | handoff | status => rfl
  | tickSmp d | tickTxStart d | tickTxData d | tickTxStop d => cases d <;> rfl

theorem mem_opcodeTable_iff_row (r : TableRow) (i : Instr) : r ∈ opcodeTable ∧ r.mnemonic = i.mnemonic ↔ r = i.row := by
  have h : r ∈ opcodeTable.filter (fun r => r.mnemonic = i.mnemonic) ↔ r = i.row := by
    rw [opcodeTable_filter_mnemonic, List.mem_singleton]
  simpa using h

/-- A key has an operation's values on the bits that it fixes exactly when it matches the row and carries the operand at `DK[4]`. -/
theorem pattern_iff_row (k : Key) (i : Instr) :
    k &&& i.keyMask = i.keyBits ↔
      i.row.matchesKey k = true ∧ i.dataBit = (decide (i.evt = .tick) && k.getLsbD 4) := by
  revert k
  refine forall_key_of_fields fun ew m x => ?_
  cases i with
  | reset | edge | esvc | handoff | status => cases m <;> cases x <;> revert ew <;> decide
  | tickSmp d | tickTxStart d | tickTxData d | tickTxStop d => cases d <;> cases m <;> cases x <;> revert ew <;> decide

/-- Two rows that ask for different values of a bit which both fix have no key in common. -/
theorem TableRow.not_matchesKey_both {r q : TableRow} (h : r.fixed &&& q.mask ≠ q.fixed &&& r.mask) (k : Key) :
    ¬ (r.matchesKey k = true ∧ q.matchesKey k = true) := by
  unfold TableRow.matchesKey
  rintro ⟨hr, hq⟩
  refine h ?_
  rw [← eq_of_beq hr, ← eq_of_beq hq, BitVec.and_assoc, BitVec.and_assoc, BitVec.and_comm r.mask]

/-- Of every two rows of the table, each asks for a value of a common bit that the other excludes. -/
theorem opcodeTable_conflicts : opcodeTable.Pairwise (fun r q => r.fixed &&& q.mask ≠ q.fixed &&& r.mask) := by
  decide

namespace Machine

/-! ### Illegal event words -/

/-- A run goes on from the state that its first step leads to (R13). -/
theorem runSteps_succ_of_next {s t : State} (h : step s = .next t) (n : Nat) : runSteps (n + 1) s = runSteps n t := by
  rw [runSteps, h]

/-- A run whose first step is refused is refused (R13). -/
theorem runSteps_succ_of_refused {s : State} {r : Refusal} (h : step s = .refused r) (n : Nat) :
    runSteps (n + 1) s = .refused r := by
  rw [runSteps, h]

/-- The step on an illegal event word records the key and gives the event no meaning (R78, R201). -/
theorem step_of_illegal_word {s : State} {ew : EventWord} {rest : List Stimulus} (hc : s.cfg.wf = true)
    (hq : s.inputs = .word ew :: rest) (hf : ew.fields = none) : step s = .refused (.illegalEventWord (s.key ew)) := by
  have hdec : decodeFields ew s.mode s.txs = .error .illegalEventWord := by
    unfold decodeFields
    rw [hf]
  unfold step
  rw [if_pos hc, s.nextStimulus_of_cons _ rest hq]
  simp only [Stimulus.eventWord, hdec, State.stopped, State.taken_key]

/-! ### The data bit of a transmit tick -/

/-- The row of TRANSMITTING (R176). -/
theorem State.Inv.transmitting {s : State} (h : s.Inv) (hm : s.mode = .transmitting) : s.TransmittingInv := by
  obtain ⟨-, -, -, -, htx⟩ := h
  exact htx hm

/-- While TRANSMITTING a tick's outcome is that of the present sub-state's operation, whose body has no operand (R76). -/
theorem State.Inv.step_txTick {s : State} (hi : s.Inv) (hm : s.mode = .transmitting) (rest : List Stimulus) :
    ∃ r, ∀ d, step { s with inputs := tick d :: rest } = r := by
  obtain ⟨htmr, -, -, -, -, hres, -⟩ := hi.transmitting hm
  have he : State.enabled { s with inputs := rest } .tick = true := by simp [State.enabled, State.tickEnabled, htmr]
  have hstep : ∀ (i : Instr) (d : Bool), i.word = mkWord .tick d → i.Selected s.mode s.txs →
      step { s with inputs := tick d :: rest } = exec i { s with inputs := rest } := fun i d hw hs =>
    step_of_queued_event (s := { s with inputs := tick d :: rest }) i hi.cfg_wf rfl (congrArg some hw.symm) hs
  rcases Txs.eq_of_ne_reserved hres with hx | hx | hx
  · exact ⟨_, fun d => (hstep (.tickTxStart d) d rfl ⟨hm, hx⟩).trans
      (State.serve_of _ (.tickTxStart d) (.next (State.sendStart _)) ⟨hm, hx⟩ he)⟩
  · exact ⟨_, fun d => (hstep (.tickTxData d) d rfl ⟨hm, hx⟩).trans
      (State.serve_of _ (.tickTxData d) (.next (State.sendData _)) ⟨hm, hx⟩ he)⟩
  · exact ⟨_, fun d => (hstep (.tickTxStop d) d rfl ⟨hm, hx⟩).trans
      (State.serve_of _ (.tickTxStop d) (.next (State.sendStop _)) ⟨hm, hx⟩ he)⟩

/-! ### ARM and CAPTURE -/

/-- The row of IDLE (R176). -/
theorem State.Inv.idle {s : State} (h : s.Inv) (hm : s.mode = .idle) : s.IdleInv := by
  obtain ⟨-, hidle, -⟩ := h
  exact hidle hm

/-- A queued `ESVC` that is enabled begins a capture (R102, R103). -/
theorem step_of_queued_esvc {s : State} {rest : List Stimulus} (hc : s.cfg.wf = true)
    (hq : s.inputs = .word (mkWord .esvc false) :: rest) (he : s.enabled .esvc = true) :
    step s = .next (State.arm { s with inputs := rest }) := by
  have hm := s.mode_of_enabled_esvc he
  exact (step_of_queued_event .esvc hc hq rfl hm).trans (State.serve_of { s with inputs := rest } .esvc _ hm he)

/-- ARM in IDLE latches an edge and services it: two steps to the start of a capture (R83, R101, R103). -/
theorem State.Inv.runSteps_arm {s : State} (hi : s.Inv) (hm : s.mode = .idle) {rest : List Stimulus}
    (hq : s.inputs = Machine.arm ++ rest) : runSteps 2 s = .next (State.latchEdge { s with inputs := rest }).arm := by
  obtain ⟨-, hie, -⟩ := hi.idle hm
  have hedge : step s = .next (State.latchEdge { s with inputs := .word (mkWord .esvc false) :: rest }) :=
    step_of_queued_event .edge hi.cfg_wf hq rfl trivial
  have hesvc := step_of_queued_esvc (s := State.latchEdge { s with inputs := .word (mkWord .esvc false) :: rest }) hi.cfg_wf rfl
    (by simp [State.enabled, State.esvcEnabled, hie, hm])
  exact (runSteps_succ_of_next hedge 1).trans (runSteps_succ_of_next hesvc 0)

/-- The state after ARM is one of the invariant (R103, R176). -/
theorem State.Inv.latchEdge_arm {s : State} (hi : s.Inv) (hm : s.mode = .idle) : s.latchEdge.arm.Inv := by
  obtain ⟨hcap, -⟩ := s.cfg.wf_iff.mp hi.cfg_wf
  obtain ⟨-, -, hbyte, -, hout⟩ := hi.idle hm
  obtain ⟨⟨hc, hw, hheader, -⟩, -⟩ := hi
  have h1 : s.sbyte.toNat = 1 := by rw [hbyte]; rfl
  exact .of_sampling ⟨hc, hw, hheader, Tmr.noConfusion⟩ rfl
    ⟨rfl, rfl, rfl, h1.ge, show s.sbyte.toNat ≤ s.cfg.cap - 1 by omega, hout⟩

/-- The levels of a CAPTURE: the bits of its bytes in capture order (R53, R83). -/
def captureLevels (vs : List Byte) : List Bool := vs.flatMap (fun v => (List.range 8).map v.getLsbD)

theorem capture_eq_map_tick (vs : List Byte) : capture vs = (captureLevels vs).map tick := by
  have hbyte : sample8 = fun v : Byte => ((List.range 8).map v.getLsbD).map tick := by
    funext v
    rw [List.map_map]
    rfl
  rw [capture, hbyte, captureLevels, List.map_flatMap]

theorem captureLevels_length (vs : List Byte) : (captureLevels vs).length = 8 * vs.length := by
  simp [captureLevels, List.length_flatMap, Nat.mul_comm]

theorem levels_map_tick (bs : List Bool) : levels (bs.map tick) = bs := by
  unfold levels
  have hlevel : Stimulus.level ∘ tick = some := funext fun d => ((tick d).level_eq_some_iff d).mpr rfl
  rw [List.filterMap_map, hlevel, List.filterMap_some]

theorem isTick_of_mem_map_tick {bs : List Bool} {st : Stimulus} (h : st ∈ bs.map tick) : st.isTick = true := by
  obtain ⟨d, -, rfl⟩ := List.mem_map.mp h
  exact (tick d).isTick_iff.mpr ⟨d, rfl⟩

/-- Bit `j` of byte `i` is level `8 * i + j` (R53). -/
theorem captureLevels_getD (vs : List Byte) (i j : Nat) (hj : j < 8) :
    (captureLevels vs).getD (8 * i + j) false = (vs.getD i 0).getLsbD j := by
  induction vs generalizing i with
  | nil => simp [captureLevels]
  | cons v vs ih =>
    rw [show captureLevels (v :: vs) = (List.range 8).map v.getLsbD ++ captureLevels vs from rfl]
    cases i with
    | zero =>
      rw [List.getD_append _ _ _ _ (by simpa using hj)]
      simp [hj]
    | succ i =>
      rw [List.getD_append_right _ _ _ _ (by simp; omega), List.getD_cons_succ, ← ih i]
      congr 1
      simp
      omega

/-- A capture that begins in a state of the invariant stores the bytes in the buffer, the first at index 1, and ends ARMED (R53, R83). -/
theorem State.Inv.runSteps_capture {s : State} (hi : s.Inv) (hm : s.mode = .sampling) (hbyte : s.sbyte = 1) (hbit : s.sbit = 0)
    {vs : List Byte} {rest : List Stimulus} (hvs : vs.length = s.cfg.cap - 1) (hq : s.inputs = capture vs ++ rest) :
    ∃ t, runSteps (8 * vs.length) s = .next t ∧ t.mode = .armed ∧ t.inputs = rest ∧
      ∀ i, i < vs.length → t.byteAt (i + 1) = vs.getD i 0 := by
  obtain ⟨hcap, -⟩ := s.cfg.wf_iff.mp hi.cfg_wf
  have hlen := captureLevels_length vs
  have hne : captureLevels vs ≠ [] := List.ne_nil_of_length_pos (by omega)
  obtain ⟨bs, d, hbs⟩ := (List.eq_nil_or_concat' _).resolve_left hne
  have hcount : bs.length + 1 = 8 * vs.length := by rw [← hlen, hbs, List.length_append, List.length_singleton]
  obtain ⟨⟨t, ht, hmode, -, -, -, -, hrest, -, hstored⟩, -⟩ :=
    captureStoresSamples s (bs.map tick) d rest hi hm hbyte hbit (fun st hst => .inl (isTick_of_mem_map_tick hst))
      (by rw [levels_map_tick]; omega) (by simp [hq, capture_eq_map_tick, hbs])
  refine ⟨t, ?_, hmode, hrest, fun i hlt => BitVec.eq_of_getLsbD_eq fun j hj => ?_⟩
  · rw [← hcount]
    simpa using ht
  · have hn := hstored (8 * i + j) (by omega)
    rw [levels_map_tick, ← hbs, captureLevels_getD vs i j hj] at hn
    rw [← hn, show 1 + (8 * i + j) / 8 = i + 1 by omega, show (8 * i + j) % 8 = j by omega]
    rfl

/-! ### The obligations -/

/-- Settles O7: an operation's encodings are the keys with its values on the bits that it fixes, which are those that decode to it. -/
theorem decodeOfEncodeIsIdentity : Obligations.DecodeOfEncodeIsIdentity :=
  ⟨fun i fill => (decode_ok_iff_pattern _ i).mpr (encode_and_keyMask i fill),
    fun k i h => encode_of_pattern ((decode_ok_iff_pattern k i).mp h)⟩

/-- Settles O3: the sixteen words are looked through; the step on an illegal one is refused, and the run stops there. -/
theorem illegalEventWordsAreRefused : Obligations.IllegalEventWordsAreRefused := by
  refine ⟨by decide, fun s ew rest n hc hq hf => ?_⟩
  have hstep := step_of_illegal_word hc hq hf
  exact ⟨hstep, runSteps_succ_of_refused hstep n⟩

/-- Settles O8: the bits that an operation fixes are those of its row and its operand; every two rows conflict in a bit. -/
theorem decodeFollowsOpcodeTable : Obligations.DecodeFollowsOpcodeTable := by
  refine ⟨fun k i => ?_, opcodeTable_conflicts.imp TableRow.not_matchesKey_both⟩
  rw [decode_ok_iff_pattern, pattern_iff_row]
  refine and_congr_left fun _ => ⟨fun h => ?_, ?_⟩
  · obtain ⟨hmem, hname⟩ := (mem_opcodeTable_iff_row i.row i).mpr rfl
    exact ⟨i.row, hmem, h, hname⟩
  · rintro ⟨r, hmem, h, hname⟩
    exact (mem_opcodeTable_iff_row r i).mp ⟨hmem, hname⟩ ▸ h

/-- Settles O44: ARM leads to the start of a capture in a state of the invariant, and CAPTURE stores its bytes from there. -/
theorem captureOfBytesFillsBuffer : Obligations.CaptureOfBytesFillsBuffer := by
  intro s vs rest hi hm hvs hq
  obtain ⟨-, -, hbyte, hbit, -⟩ := hi.idle hm
  have hK : vs.length = s.cfg.cap - 1 := by simpa [Config.captureWf] using hvs
  rw [List.append_assoc] at hq
  rw [runSteps_add 2 _ s _ (hi.runSteps_arm hm hq)]
  exact (State.Inv.latchEdge_arm (s := { s with inputs := capture vs ++ rest }) hi hm).runSteps_capture rfl hbyte hbit hK rfl

/-- Settles O51: the two ticks have the same outcome, that of the sub-state's operation. -/
theorem dataBitIgnoredWhileTransmitting : Obligations.DataBitIgnoredWhileTransmitting := by
  intro s rest hi hm
  obtain ⟨r, hr⟩ := hi.step_txTick hm rest
  rw [hr false, hr true]

/-- Settles O9: each key is a numeral, and the decoder computes. -/
theorem specKeysDecode : Obligations.SpecKeysDecode := by
  unfold Obligations.SpecKeysDecode
  decide

/-- Settles O10: the encodings are tables, and reading back inverts them. -/
theorem fieldEncodings : Obligations.FieldEncodings :=
  ⟨⟨rfl, rfl, rfl, rfl⟩, ⟨rfl, rfl, rfl, rfl⟩, ⟨rfl, rfl, rfl, rfl⟩, ⟨rfl, rfl, rfl, rfl, rfl, rfl⟩,
    Mode.ofBits_bits, Txs.ofBits_bits, Evt.ofBits_bits, rfl, rfl⟩

end Machine

end Sys2Proof
end

section
/-! The edge arming family (41_edge_arming.md): what `EDGE` and `ESVC` write, where an event has no step, and edges during a cycle. -/

namespace Sys2Proof

/-- The fields of an operation's event word are its event and its data bit (R73, R74). -/
theorem Instr.word_fields (i : Instr) : EventWord.fields i.word = some (i.evt, i.dataBit) := by
  cases i with
  | reset | edge | esvc | handoff | status => rfl
  | tickSmp d | tickTxStart d | tickTxData d | tickTxStop d => cases d <;> rfl

namespace Machine

/-! ### Events that are not enabled -/

/-- A word that carries an event selects no operation only as R79 lists: an `ESVC` outside IDLE, and a tick without a role. -/
theorem decodeFields_error_cases {ew : EventWord} {e : Evt} {d : Bool} {m : Mode} {x : Txs} {r : Reject}
    (hf : ew.fields = some (e, d)) (h : decodeFields ew m x = .error r) :
    e = .esvc ∧ r = .esvcNotIdle ∨ e = .tick ∧ (r = .tickOutOfCycle ∨ r = .reservedTxState) := by
  obtain rfl := fields_eq_word hf
  rcases eq_or_ne e .tick with rfl | hne
  · rw [decodeFields_tick] at h
    cases m with
    | idle | armed => cases h; exact .inr ⟨rfl, .inl rfl⟩
    | sampling => cases h
    | transmitting =>
      cases x with
      | start | data | stop => cases h
      | reserved => cases h; exact .inr ⟨rfl, .inr rfl⟩
  · obtain rfl : d = false := (fields_dataBit hf).resolve_left hne
    cases e with
    | reset | edge | handoff | status => cases h
    | esvc =>
      cases m with
      | idle => cases h
      | sampling | armed | transmitting => cases h; exact .inl ⟨rfl, rfl⟩
    | tick => exact absurd rfl hne

/-- An event that is not enabled and selects no operation stops as not enabled, and not as R173 or R174 say (entry 11). -/
theorem State.stopped_of_disabled {s : State} {ew : EventWord} {e : Evt} {d : Bool} {r : Reject} (hf : ew.fields = some (e, d))
    (he : s.enabled e = false) (h : decodeFields ew s.mode s.txs = .error r) :
    s.stopped ew r = .fault (.notEnabled (s.key ew)) := by
  rcases decodeFields_error_cases hf h with ⟨-, rfl⟩ | ⟨rfl, rfl | rfl⟩
  · rfl
  · exact if_neg (ne_true_of_eq_false he)
  · exact if_neg (ne_true_of_eq_false he)

/-- An operation that the state selects has no step where its event is not enabled: the guard of `ESVC` and of the ticks (R205). -/
theorem exec_of_disabled (i : Instr) (s : State) (hs : i.Selected s.mode s.txs) (he : s.enabled i.evt = false) :
    exec i s = .fault (.notEnabled (s.key i.word)) := by
  cases i with
  | reset | edge | handoff | status => cases he
  | esvc => exact s.serve_disabled .esvc _ hs he
  | tickSmp d => exact s.serve_disabled (.tickSmp d) _ hs he
  | tickTxStart d => exact s.serve_disabled (.tickTxStart d) _ hs he
  | tickTxData d => exact s.serve_disabled (.tickTxData d) _ hs he
  | tickTxStop d => exact s.serve_disabled (.tickTxStop d) _ hs he

/-- The step of a queued word that selects no operation stops for the reason that the dispatch gives (R79). -/
theorem step_of_queued_reject {s : State} {ew : EventWord} {rest : List Stimulus} {r : Reject} (hc : s.cfg.wf = true)
    (hq : s.inputs = .word ew :: rest) (h : decodeFields ew s.mode s.txs = .error r) :
    step s = State.stopped { s with inputs := rest } ew r := by
  unfold step
  rw [if_pos hc, s.nextStimulus_of_cons _ rest hq, s.taken_of_cons _ rest hq]
  simp only [Stimulus.eventWord, h]

/-! ### Edges -/

/-- Latching an edge that is pending already changes nothing (R101). -/
theorem State.latchEdge_of_pending {s : State} (h : s.edgeIfg = true) : s.latchEdge = s := by
  rw [State.latchEdge, ← h]

/-- A queued `EDGE` has a step in every mode, and it latches the edge (R101). -/
theorem step_of_queued_edge {s : State} {rest : List Stimulus} (hc : s.cfg.wf = true)
    (hq : s.inputs = .word (mkWord .edge false) :: rest) : step s = .next (State.latchEdge { s with inputs := rest }) :=
  step_of_queued_event .edge hc hq rfl trivial

/-- A run of queued `EDGE`s, in any mode, sets `EDGE_IFG` unless it is empty, and does nothing else (R101, R104). -/
theorem runSteps_edges (n : Nat) (s : State) (rest : List Stimulus) (hc : s.cfg.wf = true)
    (hq : s.inputs = List.replicate n (.word (mkWord .edge false)) ++ rest) :
    runSteps n s = .next { s with edgeIfg := s.edgeIfg || decide (0 < n), inputs := rest } := by
  induction n generalizing s with
  | zero =>
    obtain rfl : s.inputs = rest := hq
    simp [runSteps]
  | succ n ih =>
    have htail := ih (State.latchEdge { s with inputs := List.replicate n (.word (mkWord .edge false)) ++ rest }) hc rfl
    refine (runSteps_succ_of_next (step_of_queued_edge hc hq) n).trans (htail.trans ?_)
    simp [State.latchEdge]

/-- The tick that completes the cycle clears `EDGE_IFG` (R105, R160). -/
theorem State.sendStop_edgeIfg_of_eq {s : State} (h : s.txbyte.toNat = s.cfg.cap) : s.sendStop.edgeIfg = false := by
  rw [s.sendStop_of_eq h, State.finishCycle_edgeIfg]

/-! ### The obligations -/

/-- Settles O5: the event is an `ESVC` or a tick; where its operation is selected the guard stops it, elsewhere the dispatch does. -/
theorem eventsNotEnabledHaveNoStep : Obligations.EventsNotEnabledHaveNoStep := by
  intro s ew e d rest hc hq hf he
  cases hdec : decodeFields ew s.mode s.txs with
  | ok i =>
    obtain ⟨rfl, hs⟩ := (decodeFields_ok_iff ew s.mode s.txs i).mp hdec
    cases i.word_fields.symm.trans hf
    exact (step_of_queued_event i hc hq rfl hs).trans (exec_of_disabled i { s with inputs := rest } hs he)
  | error r =>
    exact (step_of_queued_reject hc hq hdec).trans (State.stopped_of_disabled (s := { s with inputs := rest }) hf he hdec)

/-- Settles O37: edges set the flag in any mode, by induction on their number, and the completing tick is one that clears it. -/
theorem edgesDuringCycleAreIgnored : Obligations.EdgesDuringCycleAreIgnored := by
  refine ⟨fun n s rest hc _ hq => runSteps_edges n s rest hc hq, fun s t d ht hcap => ?_⟩
  obtain ⟨-, -, -, rfl⟩ := execTickTxStop_next d s t ht
  exact State.sendStop_edgeIfg_of_eq hcap

/-- Settles O14: `EDGE` is unconditional, and a pending edge is latched already. -/
theorem edgeLatchesFlag : Obligations.EdgeLatchesFlag := fun _ =>
  ⟨rfl, fun h => congrArg Host.Outcome.next (State.latchEdge_of_pending h)⟩

/-- Settles O15: the three premises enable `ESVC`, and its row asks for IDLE alone. -/
theorem esvcArmsSampler : Obligations.EsvcArmsSampler := by
  intro s hie hifg hm
  have he : s.enabled .esvc = true := by simp [State.enabled, State.esvcEnabled, hie, hifg, hm]
  exact s.serve_of .esvc (.next s.arm) hm he

end Machine

end Sys2Proof
end

section
/-! The sampler family (42_sampler.md): what a sampling tick writes, the header, and a HANDOFF beside the tick that completes a
capture. -/

namespace Sys2Proof.Machine

/-! ### The buffer and the header -/

/-- The advance of the cursor moves no bit (R121, R123). -/
theorem State.advanceSample_bitAt (s : State) (i j : Nat) : s.advanceSample.bitAt i j = s.bitAt i j :=
  congrArg (·.getLsbD j) (s.advanceSample_byteAt i)

/-- The header is the configuration's in every state of the invariant (R51, R176). -/
theorem State.Inv.byteAt_zero {s : State} (h : s.Inv) : s.byteAt 0 = s.cfg.header := by
  obtain ⟨⟨-, -, hheader, -⟩, -⟩ := h
  exact hheader

/-- Of the two operations that write the buffer, a RESET writes the header again and a sampling tick writes a data byte (R126, R230). -/
theorem State.Inv.exec_byteAt_zero {s t : State} (hi : s.Inv) {i : Instr} (h : exec i s = .next t) :
    t.byteAt 0 = s.byteAt 0 := by
  obtain ⟨hcfg, -⟩ := exec_cfg_inputs i s t h
  have hheader := hi.byteAt_zero
  rcases exec_buf_cases h with hbuf | ⟨-, rfl⟩ | ⟨d, -, hm, -, rfl⟩
  · exact State.byteAt_congr hcfg hbuf 0
  · obtain ⟨⟨-, hw, -⟩, -⟩ := hi
    rw [s.powerCycle_byteAt_zero hw, hheader]
  · rw [State.advanceSample_byteAt, hi.sampled_header hm, hheader]

/-! ### The tick that completes a capture, and a HANDOFF beside it -/

/-- The tick that writes the last bit of the last byte leaves the block in ARMED (R124). -/
theorem State.Inv.step_lastSample {s : State} (hi : s.Inv) (hm : s.mode = .sampling) (hbit : s.sbit = 7)
    (hcap : s.sbyte.toNat + 1 = s.cfg.cap) {d : Bool} {rest : List Stimulus} (hq : s.inputs = tick d :: rest) :
    ∃ t, step s = .next t ∧ t.Inv ∧ t.mode = .armed ∧ t.inputs = rest := by
  obtain ⟨-, hmax, -⟩ := s.cfg.wf_iff.mp hi.cfg_wf
  have hfull : (s.sbyte + 1).toNat = s.cfg.cap := by bv_omega
  have hd : (tick d).level = some d := ((tick d).level_eq_some_iff d).mpr rfl
  refine ⟨_, hi.step_sampleTick hm hq hd, State.Inv.sampleTick (s := { s with inputs := rest }) hi hm d, ?_,
    State.advanceSample_inputs _⟩
  rw [State.advanceSample_of_full (State.sampled { s with inputs := rest } d) hbit hfull]
  rfl

/-- A queued HANDOFF in ARMED begins the transmission (R140). -/
theorem step_of_queued_handoff_armed {s : State} {rest : List Stimulus} (hc : s.cfg.wf = true) (hm : s.mode = .armed)
    (hq : s.inputs = .word (mkWord .handoff false) :: rest) :
    step s = .next (State.startTransmission { s with inputs := rest }) :=
  (step_of_queued_event .handoff hc hq rfl trivial).trans (if_pos hm)

/-- A queued HANDOFF outside ARMED changes nothing (R141). -/
theorem step_of_queued_handoff_ignored {s : State} {rest : List Stimulus} (hc : s.cfg.wf = true) (hm : s.mode ≠ .armed)
    (hq : s.inputs = .word (mkWord .handoff false) :: rest) : step s = .next { s with inputs := rest } :=
  (step_of_queued_event .handoff hc hq rfl trivial).trans (if_neg hm)

/-- The `STATUS` byte at the start of a transmission (R38, R140, R176). -/
theorem State.Inv.startTransmission_statusByte {s : State} (h : s.Inv) (hm : s.mode = .armed) :
    s.startTransmission.statusByte = 0xD3#8 := by
  obtain ⟨-, hie, hifg, -, -, hout⟩ := h.armed hm
  unfold State.statusByte
  rw [State.ready_eq_decide, State.startTransmission_txOut, State.startTransmission_tmr, State.startTransmission_edgeIfg,
    State.startTransmission_edgeIe, State.startTransmission_mode, hout, hifg, hie]
  rfl

/-! ### The obligations -/

/-- Settles O16: the tick writes the bit that the cursor names, and the cursor's advance moves no bit. -/
theorem sampleTickWritesOneBit : Obligations.SampleTickWritesOneBit := by
  intro s d hm he hi hw
  refine ⟨_, execTickSmp_of_inside d hm he hi, ?_, fun i j hij => ?_, fun i hne => ?_, State.advanceSample_cfg _,
    State.advanceSample_txs _, State.advanceSample_txbyte _, State.advanceSample_txbit _, State.advanceSample_staged _,
    State.advanceSample_edgeIe _, State.advanceSample_edgeIfg _, State.advanceSample_txOut _, State.advanceSample_inputs _,
    State.advanceSample_hostReads _, State.advanceSample_draws _⟩
  · rw [State.advanceSample_bitAt, s.sampled_bitAt d hw, if_pos ⟨rfl, rfl⟩]
  · rw [State.advanceSample_bitAt, s.sampled_bitAt d hw, if_neg hij]
  · rw [State.advanceSample_byteAt, s.sampled_byteAt_of_ne d hne]

/-- Settles O17: the cursor's advance has three cases, and no admitted `CAP` lets `SBYTE` wrap. -/
theorem sampleTickAdvancesCursor : Obligations.SampleTickAdvancesCursor := by
  intro s d hc hm he hi
  obtain ⟨-, hmax, -⟩ := s.cfg.wf_iff.mp hc
  have hnext : (s.sbyte + 1).toNat = s.sbyte.toNat + 1 := by bv_omega
  refine ⟨_, execTickSmp_of_inside d hm he hi, fun hlt => ?_, fun hlast => ?_⟩
  · have hne : s.sbit ≠ 7 := by bv_omega
    have hbit : (s.sbit + 1).toNat = s.sbit.toNat + 1 := by bv_omega
    rw [State.advanceSample_of_ne (s.sampled d) hne]
    exact ⟨hbit, rfl, hm, rfl⟩
  · have h7 : s.sbit = 7 := BitVec.eq_of_toNat_eq hlast
    by_cases hfull : (s.sbyte + 1).toNat = s.cfg.cap
    · rw [State.advanceSample_of_full (s.sampled d) h7 hfull]
      exact ⟨rfl, hnext, fun _ => ⟨rfl, rfl⟩, fun hne => absurd (hnext.symm.trans hfull) hne⟩
    · rw [State.advanceSample_of_next (s.sampled d) h7 hfull]
      exact ⟨rfl, hnext, fun heq => absurd (hnext.trans heq) hfull, fun _ => ⟨hm, rfl⟩⟩

/-- Settles O28: no operation changes the header, and a host access does not write the buffer. -/
theorem headerIsNeverModified : Obligations.HeaderIsNeverModified := by
  refine ⟨fun s t d hi ht => hi.exec_byteAt_zero ht, fun s t hi ht => ?_⟩
  obtain ⟨-, ⟨-, rfl⟩ | ⟨i, -, -, hx⟩⟩ := step_next s t ht
  · exact State.byteAt_congr (by simp) (by simp) 0
  · exact (hi.taken.exec_byteAt_zero hx).trans (s.taken_byteAt 0)

/-- Settles O53: the HANDOFF is ignored before the tick, in SAMPLING, and begins the transmission after it, in ARMED. -/
theorem handoffRacesCaptureCompletion : Obligations.HandoffRacesCaptureCompletion := by
  intro s d rest hi hm hbit hcap
  constructor
  · have hne : s.mode ≠ .armed := by rw [hm]; decide
    have hignored := step_of_queued_handoff_ignored
      (s := { s with inputs := .word (mkWord .handoff false) :: tick d :: rest }) hi.cfg_wf hne rfl
    obtain ⟨t, ht, hti, harmed, -⟩ := State.Inv.step_lastSample (s := { s with inputs := tick d :: rest }) hi hm hbit hcap rfl
    obtain ⟨htmr, -⟩ := hti.armed harmed
    exact ⟨t, (runSteps_succ_of_next hignored 1).trans (runSteps_succ_of_next ht 0), harmed, htmr, hti.armed_statusByte harmed⟩
  · obtain ⟨t, ht, hti, harmed, hq⟩ := State.Inv.step_lastSample
      (s := { s with inputs := tick d :: .word (mkWord .handoff false) :: rest }) hi hm hbit hcap rfl
    have hstart := step_of_queued_handoff_armed hti.cfg_wf harmed hq
    exact ⟨_, (runSteps_succ_of_next ht 1).trans (runSteps_succ_of_next hstart 0), rfl, rfl, rfl,
      hti.startTransmission_statusByte harmed⟩

end Sys2Proof.Machine
end

section
/-! The transmitter family (43_transmitter.md): `HANDOFF` and the transmit ticks, one at a time. -/

namespace Sys2Proof.Machine

/-! ### The transmit ticks where they are selected and enabled -/

/-- A start tick is performed where its row matches and a tick is enabled (R145, R205). -/
theorem execTickTxStart_of {s : State} (d : Bool) (hm : s.mode = .transmitting) (hx : s.txs = .start)
    (he : s.enabled .tick = true) : exec (.tickTxStart d) s = .next s.sendStart :=
  s.serve_of (.tickTxStart d) _ ⟨hm, hx⟩ he

/-- A data tick is performed where its row matches and a tick is enabled (R150, R205). -/
theorem execTickTxData_of {s : State} (d : Bool) (hm : s.mode = .transmitting) (hx : s.txs = .data)
    (he : s.enabled .tick = true) : exec (.tickTxData d) s = .next s.sendData :=
  s.serve_of (.tickTxData d) _ ⟨hm, hx⟩ he

/-- A stop tick is performed where its row matches and a tick is enabled (R160, R205). -/
theorem execTickTxStop_of {s : State} (d : Bool) (hm : s.mode = .transmitting) (hx : s.txs = .stop)
    (he : s.enabled .tick = true) : exec (.tickTxStop d) s = .next s.sendStop :=
  s.serve_of (.tickTxStop d) _ ⟨hm, hx⟩ he

/-- While TRANSMITTING the timer runs (R177). -/
theorem State.Inv.enabled_txTick {s : State} (h : s.Inv) (hm : s.mode = .transmitting) : s.enabled .tick = true := by
  obtain ⟨htmr, -⟩ := h.transmitting hm
  simp [State.enabled, State.tickEnabled, htmr]

/-- The row of IDLE fixes every field of the `STATUS` byte but the edge flag (R38, R176). -/
theorem State.idle_statusByte {s : State} (hm : s.mode = .idle) (h : s.IdleInv) :
    s.statusByte = bif s.edgeIfg then 0x98#8 else 0x88#8 := by
  obtain ⟨htmr, hie, -, -, hout⟩ := h
  unfold State.statusByte
  rw [s.ready_eq_decide, hout, htmr, hie, hm]
  cases s.edgeIfg <;> rfl

theorem State.sendStop_mode_of_eq {s : State} (h : s.txbyte.toNat = s.cfg.cap) : s.sendStop.mode = .idle := by
  rw [s.sendStop_of_eq h, State.finishCycle_mode]

/-- The tick that completes the cycle writes all that the row of IDLE asks for (R160, R176). -/
theorem State.sendStop_idleInv_of_eq {s : State} (h : s.txbyte.toNat = s.cfg.cap) : s.sendStop.IdleInv := by
  rw [s.sendStop_of_eq h]
  exact ⟨rfl, rfl, rfl, rfl, rfl⟩

theorem State.sendStop_statusByte_of_eq {s : State} (h : s.txbyte.toNat = s.cfg.cap) : s.sendStop.statusByte = 0x88#8 := by
  rw [State.idle_statusByte (State.sendStop_mode_of_eq h) (State.sendStop_idleInv_of_eq h), State.sendStop_edgeIfg_of_eq h]
  rfl

/-! ### The obligations on single operations -/

/-- Settles O18: the body writes two fields; the 256 keys are looked through. -/
theorem startTickDrivesLow : Obligations.StartTickDrivesLow := by
  refine ⟨fun s d hm hx he => execTickTxStart_of d hm hx he, ?_⟩
  decide

/-- Settles O19: what the data tick drives and where the cursor goes; the rest is its frame. -/
theorem dataTickDrivesStagedBit : Obligations.DataTickDrivesStagedBit := by
  intro s d hm hx he
  obtain ⟨hout, hlast, hwithin⟩ := s.sendData_cursor
  rw [hx] at hwithin
  exact ⟨s.sendData, execTickTxData_of d hm hx he, hout, hlast, hwithin,
    State.byteAt_congr s.sendData_cfg s.sendData_buf, s.sendData_buf, s.sendData_cfg, s.sendData_mode, s.sendData_sbyte,
    s.sendData_sbit, s.sendData_edgeIe, s.sendData_edgeIfg, s.sendData_tmr, s.sendData_inputs, s.sendData_hostReads⟩

/-- Settles O20: the three places of the cursor; after the last byte the next tick is a stop tick at `CAP`, which completes. -/
theorem dataTickStagesNextBit : Obligations.DataTickStagesNextBit := by
  intro s d hc hm hx he
  obtain ⟨-, hmax, -⟩ := s.cfg.wf_iff.mp hc
  have hnext : s.txbyte.toNat + 1 ≤ s.cfg.cap → (s.txbyte + 1).toNat = s.txbyte.toNat + 1 := fun h => by bv_omega
  refine ⟨s.sendData, execTickTxData_of d hm hx he, s.sendData_staged_within, fun hlt h8 => ?_, fun hcap h8 => ?_⟩
  · have hbyte := hnext hlt.le
    rw [← hbyte] at hlt ⊢
    exact s.sendData_staged_next hlt h8
  · have hend : (s.txbyte + 1).toNat = s.cfg.cap := (hnext hcap.le).trans hcap
    obtain ⟨hstaged, hdraws⟩ := s.sendData_staged_end hend.ge h8
    obtain ⟨-, hcursor, -⟩ := s.sendData_cursor
    obtain ⟨hbyte, -, hstop⟩ := hcursor h8
    have he' : s.sendData.enabled .tick = true := by
      simpa [State.enabled, State.tickEnabled] using he
    have hcap' : s.sendData.txbyte.toNat = s.sendData.cfg.cap := by rw [hbyte, hend, State.sendData_cfg]
    exact ⟨hstaged, hdraws, fun d' =>
      ⟨_, execTickTxStop_of d' (s.sendData_mode.trans hm) hstop he', State.sendStop_txOut _, State.sendStop_mode_of_eq hcap'⟩⟩

/-- Settles O21: the two cases of the stop tick. -/
theorem stopTickEndsFrame : Obligations.StopTickEndsFrame := by
  intro s d hm hx he
  have hstep := execTickTxStop_of d hm hx he
  refine ⟨fun hne => ?_, fun heq => ?_⟩
  · rw [hstep, s.sendStop_of_ne hne]
    rfl
  · exact ⟨s.sendStop, hstep, s.sendStop_of_eq heq, State.sendStop_statusByte_of_eq heq⟩

/-- Settles O22: the writes of R140, under its test of `MODE`. -/
theorem handoffStartsTransmission : Obligations.HandoffStartsTransmission := fun _ hm => if_pos hm

/-- Settles O23: a HANDOFF is always enabled, and its test of `MODE` fails outside ARMED. -/
theorem handoffElsewhereIsIgnored : Obligations.HandoffElsewhereIsIgnored := fun _ => ⟨rfl, fun hm => if_neg hm⟩

end Sys2Proof.Machine
end

section
/-! The transmitter family (43_transmitter.md): what a whole transmission puts on the line, and the round trip. -/

namespace Sys2Proof.Machine

/-! ### The frames of the buffer -/

/-- Lists of one length, joined in order, are read off by division with remainder. -/
theorem flatMap_range_eq_map {α : Type} (f : Nat → List α) (m : Nat) (v : α) (hf : ∀ i, (f i).length = m) (n : Nat) :
    (List.range n).flatMap f = (List.range (n * m)).map (fun p => (f (p / m)).getD (p % m) v) := by
  induction n with
  | zero => simp
  | succ n ih =>
    have hlast : f n = (List.range m).map (fun k => (f ((n * m + k) / m)).getD ((n * m + k) % m) v) := by
      refine List.ext_getElem (by simp [hf]) fun k hk _ => ?_
      have hkm : k < m := hf n ▸ hk
      have hdiv : (n * m + k) / m = n := by
        rw [Nat.mul_comm, Nat.mul_add_div (by omega), Nat.div_eq_of_lt hkm, Nat.add_zero]
      have hmod : (n * m + k) % m = k := by rw [Nat.mul_comm, Nat.mul_add_mod, Nat.mod_eq_of_lt hkm]
      rw [List.getElem_map, List.getElem_range, hdiv, hmod, List.getD_eq_getElem _ _ hk]
    rw [List.range_succ, List.flatMap_append, List.flatMap_singleton, ih, Nat.succ_mul, List.range_add, List.map_append,
      List.map_map]
    exact congrArg _ hlast

theorem frame_length (b : Byte) : (frame b).length = 10 := rfl

/-- A frame begins with the start bit 0 (R81). -/
theorem frame_getD_start (b : Byte) : (frame b).getD 0 false = false := rfl

/-- Bits 1 to 8 of a frame are the byte's, LSB first (R81). -/
theorem frame_getD_data (b : Byte) {j : Nat} (hj : j < 8) : (frame b).getD (j + 1) false = b.getLsbD j := by
  have hlen : j < ((List.range 8).map b.getLsbD).length := by simpa using hj
  show (((List.range 8).map b.getLsbD) ++ [true]).getD j false = b.getLsbD j
  rw [List.getD_append _ _ _ _ hlen, List.getD_eq_getElem _ _ hlen, List.getElem_map, List.getElem_range]

/-- A frame ends with the stop bit 1 (R81). -/
theorem frame_getD_stop (b : Byte) : (frame b).getD 9 false = true := rfl

/-- The level at place `p` of the frames: bit `p mod 10` of the frame of byte `p div 10` (R165). -/
def State.lineLevel (s : State) (p : Nat) : Bool := (frame (s.byteAt (p / 10))).getD (p % 10) false

theorem State.frames_eq_map (s : State) : s.frames = (List.range s.cfg.transmitPeriods).map s.lineLevel :=
  flatMap_range_eq_map (fun i => frame (s.byteAt i)) 10 false (fun i => frame_length (s.byteAt i)) s.cfg.cap

theorem State.frames_length (s : State) : s.frames.length = s.cfg.transmitPeriods := by
  rw [s.frames_eq_map, List.length_map, List.length_range]

theorem State.frames_congr {s t : State} (hc : t.cfg = s.cfg) (hb : t.buf = s.buf) : t.frames = s.frames := by
  unfold State.frames
  simp only [hc, State.byteAt_congr hc hb]

/-! ### What a transmission has still to send -/

/-- The levels that the transmission in progress has still to put on the line (R165, R178). -/
def State.toSend (s : State) : List Bool := s.frames.drop (s.cfg.transmitPeriods - s.ticksLeft)

/-- Where the next level is bit `k` of the frame of byte `i`, a tick that drives it and takes one of the ticks left leaves the
others to send. -/
theorem State.toSend_cons {s t : State} {i k : Nat} (hc : t.cfg = s.cfg) (hb : t.buf = s.buf) (hk : k < 10)
    (hs : s.ticksLeft + (10 * i + k) = s.cfg.transmitPeriods) (ht : t.ticksLeft + 1 = s.ticksLeft)
    (hout : t.txOut = (frame (s.byteAt i)).getD k false) : s.toSend = t.txOut :: t.toSend := by
  have hlt : 10 * i + k < s.frames.length := by rw [s.frames_length]; omega
  have hlevel : s.frames[10 * i + k] = t.txOut := by
    simp only [s.frames_eq_map, List.getElem_map, List.getElem_range, State.lineLevel]
    rw [hout, show (10 * i + k) / 10 = i by omega, show (10 * i + k) % 10 = k by omega]
  unfold State.toSend
  rw [State.frames_congr hc hb, hc, show s.cfg.transmitPeriods - s.ticksLeft = 10 * i + k by omega,
    show s.cfg.transmitPeriods - t.ticksLeft = 10 * i + k + 1 by omega, List.drop_eq_getElem_cons hlt, hlevel]

/-! ### The ticks of a transmission -/

/-- The next state differs in the transmitter's fields alone, the draw counter apart. -/
structure State.SameOutsideTx (s t : State) : Prop where
  cfg : t.cfg = s.cfg
  mode : t.mode = s.mode
  sbyte : t.sbyte = s.sbyte
  sbit : t.sbit = s.sbit
  edgeIe : t.edgeIe = s.edgeIe
  edgeIfg : t.edgeIfg = s.edgeIfg
  tmr : t.tmr = s.tmr
  buf : t.buf = s.buf

section
variable {s t : State}

theorem State.sameOutsideTx_sendStart (s : State) : s.SameOutsideTx s.sendStart :=
  ⟨rfl, rfl, rfl, rfl, rfl, rfl, rfl, rfl⟩

theorem State.sameOutsideTx_sendData (s : State) : s.SameOutsideTx s.sendData :=
  ⟨s.sendData_cfg, s.sendData_mode, s.sendData_sbyte, s.sendData_sbit, s.sendData_edgeIe, s.sendData_edgeIfg, s.sendData_tmr,
    s.sendData_buf⟩

theorem State.sameOutsideTx_sendStop (h : s.txbyte.toNat ≠ s.cfg.cap) : s.SameOutsideTx s.sendStop := by
  rw [s.sendStop_of_ne h]
  exact ⟨rfl, rfl, rfl, rfl, rfl, rfl, rfl, rfl⟩

theorem State.SameOutsideTx.bitAt (h : s.SameOutsideTx t) (i j : Nat) : t.bitAt i j = s.bitAt i j :=
  congrArg (·.getLsbD j) (State.byteAt_congr h.cfg h.buf i)

/-- The row of TRANSMITTING in START (R176). -/
theorem State.Inv.txStart (h : s.Inv) (hm : s.mode = .transmitting) (hx : s.txs = .start) : s.TxStartInv := by
  obtain ⟨-, -, -, -, -, -, hstart, -⟩ := h.transmitting hm
  exact hstart hx

/-- The row of TRANSMITTING in STOP (R176). -/
theorem State.Inv.txStop (h : s.Inv) (hm : s.mode = .transmitting) (hx : s.txs = .stop) : s.TxStopInv := by
  obtain ⟨-, -, -, -, -, -, -, -, hstop⟩ := h.transmitting hm
  exact hstop hx

/-- The row of a sub-state of TRANSMITTING (R176); the reserved one has none. -/
def State.TxRow (s : State) : Prop :=
  match s.txs with
  | .start => s.TxStartInv
  | .data => s.TxDataInv
  | .stop => s.TxStopInv
  | .reserved => False

/-- The row of TRANSMITTING is what a transmit tick leaves alone and the row of the sub-state. -/
theorem State.transmittingInv_iff (s : State) : s.TransmittingInv ↔
    (s.tmr = .bit ∧ s.edgeIe = false ∧ s.edgeIfg = true ∧ s.sbyte.toNat = s.cfg.cap ∧ s.sbit = 0) ∧ s.TxRow := by
  unfold State.TxRow
  cases hx : s.txs <;> simp [hx, and_assoc]

/-- A state that differs from one of a transmission in the transmitter's fields alone is one of the invariant where its
sub-state's row holds. -/
theorem State.SameOutsideTx.inv (h : s.SameOutsideTx t) (hi : s.Inv) (hm : s.mode = .transmitting) (hrow : t.TxRow) : t.Inv := by
  obtain ⟨hframe, -⟩ := s.transmittingInv_iff.mp (hi.transmitting hm)
  have hheader := hi.byteAt_zero
  obtain ⟨⟨hc, hw, -, hres⟩, -⟩ := hi
  have hm' := h.mode.trans hm
  refine ⟨⟨h.cfg ▸ hc, ?_, ?_, h.tmr ▸ hres⟩, by simp [hm'], by simp [hm'], by simp [hm'],
    fun _ => t.transmittingInv_iff.mpr ⟨?_, hrow⟩⟩
  · rwa [h.cfg, h.buf]
  · rw [State.byteAt_congr h.cfg h.buf, h.cfg, hheader]
  · rwa [h.tmr, h.edgeIe, h.edgeIfg, h.sbyte, h.sbit, h.cfg]

/-- A start tick keeps the invariant: bit 0 of the byte is staged (R145). -/
theorem State.Inv.sendStart (hi : s.Inv) (hm : s.mode = .transmitting) (hx : s.txs = .start) : s.sendStart.Inv := by
  obtain ⟨-, hle, hbit, hstaged⟩ := hi.txStart hm hx
  have hone : s.txbit.toNat = 1 := by rw [hbit]; rfl
  exact s.sameOutsideTx_sendStart.inv hi hm ⟨hle, hone.ge, show s.txbit.toNat ≤ 8 by omega,
    show s.staged = s.bitAt s.txbyte.toNat (s.txbit.toNat - 1) by rw [hone, hstaged]⟩

/-- A data tick before the last bit of a byte keeps the invariant: the next bit is staged (R150). -/
theorem State.Inv.sendData_within (hi : s.Inv) (hm : s.mode = .transmitting) (hx : s.txs = .data) (h8 : s.txbit ≠ 8) :
    s.sendData.Inv := by
  have hsame := s.sameOutsideTx_sendData
  obtain ⟨-, -, hcursor⟩ := s.sendData_cursor
  obtain ⟨hbyte, hbit, hxs⟩ := hcursor h8
  obtain ⟨hcap, -⟩ := s.cfg.wf_iff.mp hi.cfg_wf
  obtain ⟨hle, h1, hle8, -⟩ := hi.txData hm hx
  have hlt : s.txbit.toNat < 8 := by bv_omega
  have hbit' : s.sendData.txbit.toNat = s.txbit.toNat + 1 := by bv_omega
  obtain ⟨hstaged, -⟩ := s.sendData_staged_within (by omega) hlt
  refine hsame.inv hi hm ?_
  rw [State.TxRow, hxs, hx]
  refine ⟨by rwa [hbyte, hsame.cfg], by omega, by omega, ?_⟩
  rw [hsame.bitAt, hstaged, hbyte, hbit', Nat.add_sub_cancel]

/-- The data tick of a byte's last bit keeps the invariant: bit 0 of the next byte is staged, where there is one (R150, R155). -/
theorem State.Inv.sendData_last (hi : s.Inv) (hm : s.mode = .transmitting) (hx : s.txs = .data) (h8 : s.txbit = 8) :
    s.sendData.Inv := by
  have hsame := s.sameOutsideTx_sendData
  obtain ⟨hout, hcursor, -⟩ := s.sendData_cursor
  obtain ⟨hbyte, hbit, hxs⟩ := hcursor h8
  obtain ⟨hcap, hmax, -⟩ := s.cfg.wf_iff.mp hi.cfg_wf
  obtain ⟨hle, -, -, hstaged⟩ := hi.txData hm hx
  have hnext : (s.txbyte + 1).toNat = s.txbyte.toNat + 1 := by bv_omega
  refine hsame.inv hi hm ?_
  rw [State.TxRow, hxs]
  refine ⟨by rw [hbyte]; omega, by rw [hbyte, hsame.cfg]; omega, hbit, ?_, fun hlt => ?_⟩
  · rw [hsame.bitAt, hout, hstaged, hbyte, hnext, h8]
    rfl
  · rw [hbyte, hsame.cfg] at hlt
    obtain ⟨hstaged', -⟩ := s.sendData_staged_next hlt h8
    rw [hsame.bitAt, hstaged', hbyte]

theorem State.Inv.sendData (hi : s.Inv) (hm : s.mode = .transmitting) (hx : s.txs = .data) : s.sendData.Inv := by
  by_cases h8 : s.txbit = 8
  · exact hi.sendData_last hm hx h8
  · exact hi.sendData_within hm hx h8

/-- A stop tick before the last byte keeps the invariant: bit 0 of the next byte has been staged (R160). -/
theorem State.Inv.sendStop_within (hi : s.Inv) (hm : s.mode = .transmitting) (hx : s.txs = .stop)
    (hne : s.txbyte.toNat ≠ s.cfg.cap) : s.sendStop.Inv := by
  have hsame := State.sameOutsideTx_sendStop hne
  obtain ⟨h1, hle, hbit, -, hstaged⟩ := hi.txStop hm hx
  refine hsame.inv hi hm ?_
  rw [State.TxRow, State.sendStop_txs]
  refine ⟨s.sendStop_txOut, ?_, by rw [s.sendStop_txbit, hbit], ?_⟩
  · rw [s.sendStop_txbyte, hsame.cfg]
    omega
  · rw [hsame.bitAt, s.sendStop_staged, s.sendStop_txbyte, hstaged (by omega)]

/-- The completing tick keeps the invariant: it writes all that the row of IDLE asks for (R160). -/
theorem State.Inv.sendStop_last (hi : s.Inv) (heq : s.txbyte.toNat = s.cfg.cap) : s.sendStop.Inv := by
  have hheader := hi.byteAt_zero
  obtain ⟨⟨hc, hw, -, -⟩, -⟩ := hi
  have hrow := State.sendStop_idleInv_of_eq heq
  rw [s.sendStop_of_eq heq] at hrow ⊢
  exact ⟨⟨hc, hw, hheader, Tmr.noConfusion⟩, fun _ => hrow, Mode.noConfusion, Mode.noConfusion, Mode.noConfusion⟩

theorem State.Inv.sendStop (hi : s.Inv) (hm : s.mode = .transmitting) (hx : s.txs = .stop) : s.sendStop.Inv := by
  by_cases heq : s.txbyte.toNat = s.cfg.cap
  · exact hi.sendStop_last heq
  · exact hi.sendStop_within hm hx heq

/-! ### The level that a tick puts on the line -/

theorem State.ticksLeft_of_idle (hm : s.mode = .idle) : s.ticksLeft = 0 := by
  simp [State.ticksLeft, hm]

theorem State.ticksLeft_of_start (hm : s.mode = .transmitting) (hx : s.txs = .start) :
    s.ticksLeft = (s.cfg.cap - s.txbyte.toNat) * 10 := by
  simp [State.ticksLeft, hm, hx]

theorem State.ticksLeft_of_data (hm : s.mode = .transmitting) (hx : s.txs = .data) :
    s.ticksLeft = (s.cfg.cap - s.txbyte.toNat) * 10 - s.txbit.toNat := by
  simp [State.ticksLeft, hm, hx]

theorem State.ticksLeft_of_stop (hm : s.mode = .transmitting) (hx : s.txs = .stop) :
    s.ticksLeft = (s.cfg.cap - s.txbyte.toNat) * 10 + 1 := by
  simp [State.ticksLeft, hm, hx]

/-- A transmission in progress still takes ticks, and no more than the whole (R178). -/
theorem State.Inv.ticksLeft_transmitting (hi : s.Inv) (hm : s.mode = .transmitting) :
    0 < s.ticksLeft ∧ s.ticksLeft ≤ s.cfg.transmitPeriods := by
  obtain ⟨hcap, -⟩ := s.cfg.wf_iff.mp hi.cfg_wf
  obtain ⟨-, -, -, -, -, hres, -⟩ := hi.transmitting hm
  unfold Config.transmitPeriods
  rcases Txs.eq_of_ne_reserved hres with hx | hx | hx
  · obtain ⟨-, hle, -⟩ := hi.txStart hm hx
    rw [State.ticksLeft_of_start hm hx]
    omega
  · obtain ⟨hle, -, hle8, -⟩ := hi.txData hm hx
    rw [State.ticksLeft_of_data hm hx]
    omega
  · obtain ⟨h1, -⟩ := hi.txStop hm hx
    rw [State.ticksLeft_of_stop hm hx]
    omega

/-- A start tick sends the start bit of the byte (R145). -/
theorem State.Inv.toSend_sendStart (hi : s.Inv) (hm : s.mode = .transmitting) (hx : s.txs = .start) :
    s.toSend = s.sendStart.txOut :: s.sendStart.toSend := by
  obtain ⟨hcap, -⟩ := s.cfg.wf_iff.mp hi.cfg_wf
  obtain ⟨-, hle, hbit, -⟩ := hi.txStart hm hx
  have hone : s.txbit.toNat = 1 := by rw [hbit]; rfl
  have hleft := State.ticksLeft_of_start hm hx
  have hleft' : s.sendStart.ticksLeft = (s.cfg.cap - s.txbyte.toNat) * 10 - s.txbit.toNat :=
    State.ticksLeft_of_data (s := s.sendStart) hm rfl
  refine State.toSend_cons (i := s.txbyte.toNat) (k := 0) rfl rfl (by omega) ?_ (by omega) (frame_getD_start _).symm
  unfold Config.transmitPeriods
  omega

/-- A data tick sends the bit that was staged (R150). -/
theorem State.Inv.toSend_sendData (hi : s.Inv) (hm : s.mode = .transmitting) (hx : s.txs = .data) :
    s.toSend = s.sendData.txOut :: s.sendData.toSend := by
  obtain ⟨hcap, hmax, -⟩ := s.cfg.wf_iff.mp hi.cfg_wf
  obtain ⟨hle, h1, hle8, hstaged⟩ := hi.txData hm hx
  obtain ⟨hout, hlast, hwithin⟩ := s.sendData_cursor
  have hleft := State.ticksLeft_of_data hm hx
  have hm' := s.sendData_mode.trans hm
  have hleft' : s.sendData.ticksLeft + 1 = s.ticksLeft := by
    by_cases h8 : s.txbit = 8
    · obtain ⟨hbyte, -, hxs⟩ := hlast h8
      have hnext : (s.txbyte + 1).toNat = s.txbyte.toNat + 1 := by bv_omega
      have height : s.txbit.toNat = 8 := by rw [h8]; rfl
      rw [State.ticksLeft_of_stop hm' hxs, hbyte, State.sendData_cfg, hnext]
      omega
    · obtain ⟨hbyte, hbit, hxs⟩ := hwithin h8
      have hbit' : (s.txbit + 1).toNat = s.txbit.toNat + 1 := by bv_omega
      rw [State.ticksLeft_of_data hm' (hxs.trans hx), hbyte, hbit, hbit', State.sendData_cfg]
      omega
  refine State.toSend_cons (i := s.txbyte.toNat) (k := s.txbit.toNat) s.sendData_cfg s.sendData_buf (by omega) ?_ hleft' ?_
  · unfold Config.transmitPeriods
    omega
  · obtain ⟨j, hj⟩ := Nat.exists_eq_add_of_le' h1
    rw [hout, hstaged, hj, frame_getD_data _ (by omega)]
    rfl

/-- A stop tick sends the stop bit of the byte before the cursor (R160). -/
theorem State.Inv.toSend_sendStop (hi : s.Inv) (hm : s.mode = .transmitting) (hx : s.txs = .stop) :
    s.toSend = s.sendStop.txOut :: s.sendStop.toSend := by
  obtain ⟨h1, hle, -⟩ := hi.txStop hm hx
  have hleft := State.ticksLeft_of_stop hm hx
  have hleft' : s.sendStop.ticksLeft + 1 = s.ticksLeft := by
    by_cases heq : s.txbyte.toNat = s.cfg.cap
    · rw [State.ticksLeft_of_idle (State.sendStop_mode_of_eq heq)]
      omega
    · rw [State.ticksLeft_of_start ((State.sameOutsideTx_sendStop heq).mode.trans hm) s.sendStop_txs, State.sendStop_txbyte,
        State.sendStop_cfg]
      omega
  refine State.toSend_cons (i := s.txbyte.toNat - 1) (k := 9) s.sendStop_cfg s.sendStop_buf (by omega) ?_ hleft' ?_
  · unfold Config.transmitPeriods
    omega
  · rw [State.sendStop_txOut, frame_getD_stop]

/-! ### A transmission, one stimulus after the other -/

/-- A transmission in progress or just completed (R140, R160). -/
structure State.Sending (s : State) : Prop where
  inv : s.Inv
  cycle : s.mode = .transmitting ∨ s.mode = .idle ∧ s.edgeIfg = false

theorem State.Sending.toSend_length (h : s.Sending) : s.toSend.length = s.ticksLeft := by
  have hle : s.ticksLeft ≤ s.cfg.transmitPeriods := by
    rcases h.cycle with hm | ⟨hm, -⟩
    · exact (h.inv.ticksLeft_transmitting hm).2
    · rw [State.ticksLeft_of_idle hm]
      exact Nat.zero_le _
  rw [State.toSend, List.length_drop, s.frames_length]
  omega

/-- While levels are still to send the transmission is in progress. -/
theorem State.Sending.mode_transmitting (h : s.Sending) (hpos : 0 < s.toSend.length) : s.mode = .transmitting := by
  refine h.cycle.resolve_right fun ⟨hm, _⟩ => ?_
  rw [h.toSend_length, State.ticksLeft_of_idle hm] at hpos
  exact Nat.lt_irrefl 0 hpos

/-- With the last level sent the cycle is complete (R160). -/
theorem State.Sending.completed (h : s.Sending) (hnil : s.toSend.length = 0) : s.mode = .idle ∧ s.edgeIfg = false := by
  refine h.cycle.resolve_left fun hm => ?_
  obtain ⟨hpos, -⟩ := h.inv.ticksLeft_transmitting hm
  rw [← h.toSend_length, hnil] at hpos
  exact Nat.lt_irrefl 0 hpos

/-- A tick while TRANSMITTING performs the operation of the sub-state, which sends the next level (R172). -/
theorem State.Inv.exists_sendTick (hi : s.Inv) (hm : s.mode = .transmitting) (d : Bool) :
    ∃ i t, mkWord .tick d = i.word ∧ i.Selected s.mode s.txs ∧ exec i s = .next t ∧ t.Sending ∧
      s.toSend = t.txOut :: t.toSend := by
  obtain ⟨-, -, -, -, -, hres, -⟩ := hi.transmitting hm
  have he := hi.enabled_txTick hm
  rcases Txs.eq_of_ne_reserved hres with hx | hx | hx
  · exact ⟨.tickTxStart d, _, rfl, ⟨hm, hx⟩, execTickTxStart_of d hm hx he, ⟨hi.sendStart hm hx, .inl hm⟩,
      hi.toSend_sendStart hm hx⟩
  · exact ⟨.tickTxData d, _, rfl, ⟨hm, hx⟩, execTickTxData_of d hm hx he,
      ⟨hi.sendData hm hx, .inl (s.sendData_mode.trans hm)⟩, hi.toSend_sendData hm hx⟩
  · have hcycle : s.sendStop.mode = .transmitting ∨ s.sendStop.mode = .idle ∧ s.sendStop.edgeIfg = false := by
      by_cases heq : s.txbyte.toNat = s.cfg.cap
      · exact .inr ⟨State.sendStop_mode_of_eq heq, State.sendStop_edgeIfg_of_eq heq⟩
      · exact .inl ((State.sameOutsideTx_sendStop heq).mode.trans hm)
    exact ⟨.tickTxStop d, _, rfl, ⟨hm, hx⟩, execTickTxStop_of d hm hx he, ⟨hi.sendStop hm hx, hcycle⟩,
      hi.toSend_sendStop hm hx⟩

/-- Outside ARMED, or where it is no HANDOFF, a quiet stimulus in a cycle gives the host at most a byte: the edge flag is set
already (R101, R141, R176). -/
theorem step_of_queued_quiet {st : Stimulus} {rest : List Stimulus} (hc : s.cfg.wf = true) (hifg : s.edgeIfg = true)
    (hq : s.inputs = st :: rest) (hst : st.isQuiet = true)
    (hwait : s.mode = .armed → st.eventWord ≠ some (mkWord .handoff false)) :
    ∃ r, step s = .next { s with inputs := rest, hostReads := r } := by
  rcases Stimulus.edge_or_isHost_of_isQuiet hst with hw | hhost
  · exact ⟨s.hostReads, (step_of_queued_event .edge hc hq hw trivial).trans
      (congrArg _ (State.latchEdge_of_pending (s := { s with inputs := rest }) hifg))⟩
  · rcases step_of_queued_host hc hq hhost with hr | ⟨harmed, hw, -⟩
    · exact hr
    · exact absurd hw (hwait harmed)

theorem Stimulus.isTick_of_isQuiet {st : Stimulus} (h : st.isQuiet = true) : st.isTick = false := by
  refine eq_false_of_ne_true fun htick => ?_
  obtain ⟨d, hw⟩ := st.isTick_iff.mp htick
  exact Option.some_ne_none d (((st.level_eq_some_iff d).mpr hw).symm.trans (Stimulus.level_of_isQuiet h))

/-- A step that services no tick of a transmission adds nothing to the line trace (R14). -/
theorem lineTrace_succ_of_not_servesTxTick (h : s.servesTxTick = false) (ht : step s = .next t) (n : Nat) :
    lineTrace (n + 1) s = lineTrace n t := by
  rw [lineTrace, ht, h]
  rfl

/-- A tick serviced while TRANSMITTING adds the level it leaves on the line (R14). -/
theorem lineTrace_one_of_servesTxTick (h : s.servesTxTick = true) (ht : step s = .next t) : lineTrace 1 s = [t.txOut] := by
  rw [lineTrace, ht, h]
  rfl

/-- The stimuli lead a transmission from one state to the other, and each tick among them sends the next level. -/
structure Transmits (s : State) (l : List Stimulus) (t : State) : Prop where
  run : runSteps l.length s = .next t
  sending : t.Sending
  line : s.toSend = lineTrace l.length s ++ t.toSend
  ticks : (lineTrace l.length s).length = (levels l).length

theorem Transmits.trans {u : State} {l l' : List Stimulus} (h : Transmits s l t) (h' : Transmits t l' u) :
    Transmits s (l ++ l') u := by
  have htrace := lineTrace_add l.length l'.length s t h.run
  rw [← List.length_append] at htrace
  refine ⟨?_, h'.sending, ?_, ?_⟩
  · rw [List.length_append, runSteps_add _ _ s t h.run, h'.run]
  · rw [htrace, h.line, h'.line, List.append_assoc]
  · rw [htrace, levels_append, List.length_append, List.length_append, h.ticks, h'.ticks]

/-- The levels left to send are those before, less one for each tick. -/
theorem Transmits.toSend_length {l : List Stimulus} (h : Transmits s l t) :
    (levels l).length + t.toSend.length = s.toSend.length := by
  rw [h.line, List.length_append, h.ticks]

/-- A tick of a transmission sends the next level. -/
theorem State.Sending.transmits_tick (h : s.Sending) (hpos : 0 < s.toSend.length) {st : Stimulus} {rest : List Stimulus}
    (hq : s.inputs = st :: rest) (hst : st.isTick = true) : ∃ t, Transmits s [st] t ∧ t.inputs = rest := by
  have hm := h.mode_transmitting hpos
  obtain ⟨d, hw⟩ := st.isTick_iff.mp hst
  obtain ⟨i, t, hi, hs, ht, hsending, hline⟩ := State.Inv.exists_sendTick (s := { s with inputs := rest }) h.inv hm d
  have hstep : step s = .next t := (step_of_queued_event i h.inv.cfg_wf hq (hi ▸ hw) hs).trans ht
  obtain ⟨-, hrest⟩ := exec_cfg_inputs i _ t ht
  have htrace : lineTrace [st].length s = [t.txOut] :=
    lineTrace_one_of_servesTxTick (by simp [State.servesTxTick, hm, s.nextStimulus_of_cons st rest hq, hst]) hstep
  have hlevel : levels [st] = [d] := List.filterMap_cons_some ((st.level_eq_some_iff d).mpr hw)
  refine ⟨t, ⟨runSteps_succ_of_next hstep 0, hsending, ?_, ?_⟩, hrest⟩
  · rw [htrace]
    exact hline
  · rw [htrace, hlevel]
    rfl

/-- A quiet stimulus in a transmission sends nothing. -/
theorem State.Sending.transmits_quiet (h : s.Sending) (hpos : 0 < s.toSend.length) {st : Stimulus} {rest : List Stimulus}
    (hq : s.inputs = st :: rest) (hst : st.isQuiet = true) : ∃ t, Transmits s [st] t ∧ t.inputs = rest := by
  have hm := h.mode_transmitting hpos
  obtain ⟨-, -, hifg, -⟩ := h.inv.transmitting hm
  obtain ⟨r, hr⟩ := step_of_queued_quiet h.inv.cfg_wf hifg hq hst fun harmed => absurd (hm.symm.trans harmed) (by decide)
  have htrace : lineTrace [st].length s = [] :=
    lineTrace_succ_of_not_servesTxTick
      (by simp [State.servesTxTick, s.nextStimulus_of_cons st rest hq, Stimulus.isTick_of_isQuiet hst]) hr 0
  have hlevel : levels [st] = [] := List.filterMap_cons_none (Stimulus.level_of_isQuiet hst)
  refine ⟨_, ⟨runSteps_succ_of_next hr 0, ⟨h.inv, h.cycle⟩, ?_, ?_⟩, rfl⟩
  · rw [htrace]
    rfl
  · rw [htrace, hlevel]

/-- The stimuli of a transmission in progress, one after the other, send one level for each tick among them. -/
theorem State.Sending.run {l rest : List Stimulus} (hl : ∀ st ∈ l, st.isTick = true ∨ st.isQuiet = true) :
    ∀ {s : State}, s.Sending → (levels l).length < s.toSend.length → s.inputs = l ++ rest →
      ∃ t, Transmits s l t ∧ t.inputs = rest := by
  induction l with
  | nil =>
    intro s h _ hq
    exact ⟨s, ⟨rfl, h, rfl, rfl⟩, hq⟩
  | cons st l ih =>
    intro s h hlen hq
    have hpos : 0 < s.toSend.length := by omega
    have hfirst : ∃ u, Transmits s [st] u ∧ u.inputs = l ++ rest :=
      (hl st List.mem_cons_self).elim (h.transmits_tick hpos hq) (h.transmits_quiet hpos hq)
    obtain ⟨u, hu, hqu⟩ := hfirst
    have hcount := hu.toSend_length
    rw [← List.singleton_append, levels_append, List.length_append] at hlen
    obtain ⟨t, ht, hqt⟩ := ih (fun x hx => hl x (List.mem_cons_of_mem _ hx)) hu.sending (by omega) hqu
    exact ⟨t, hu.trans ht, hqt⟩

/-- The tick that sends the last level completes the cycle (R160). -/
theorem State.Sending.complete {l rest : List Stimulus} {d : Bool} (h : s.Sending)
    (hl : ∀ st ∈ l, st.isTick = true ∨ st.isQuiet = true) (hlen : (levels l).length + 1 = s.toSend.length)
    (hq : s.inputs = l ++ tick d :: rest) :
    ∃ t, runSteps (l.length + 1) s = .next t ∧ t.Inv ∧ t.mode = .idle ∧ t.edgeIfg = false ∧ t.inputs = rest ∧
      lineTrace (l.length + 1) s = s.toSend := by
  obtain ⟨u, hu, hqu⟩ := State.Sending.run hl h (by omega) hq
  have hone := hu.toSend_length
  obtain ⟨t, ht, hqt⟩ := hu.sending.transmits_tick (by omega) hqu ((tick d).isTick_iff.mpr ⟨d, rfl⟩)
  have hleft := (hu.trans ht).toSend_length
  rw [levels_append, levels_tick, List.length_append, List.length_singleton] at hleft
  have hnil : t.toSend.length = 0 := by omega
  obtain ⟨hrun, hsending, hline, -⟩ := hu.trans ht
  rw [List.length_append, List.length_singleton] at hrun hline
  obtain ⟨hidle, hclear⟩ := hsending.completed hnil
  rw [List.eq_nil_of_length_eq_zero hnil, List.append_nil] at hline
  exact ⟨t, hrun, hsending.inv, hidle, hclear, hqt, hline.symm⟩

/-! ### From the hand-off to the completion -/

/-- A HANDOFF in ARMED leads to a state of the invariant: the staged 0 is bit 0 of the header (R140). -/
theorem State.Inv.startTransmission (hi : s.Inv) (hm : s.mode = .armed) : s.startTransmission.Inv := by
  obtain ⟨-, -, hheader0⟩ := s.cfg.wf_iff.mp hi.cfg_wf
  obtain ⟨-, hie, hifg, hcap, hzero, hout⟩ := hi.armed hm
  have hheader := hi.byteAt_zero
  obtain ⟨⟨hc, hw, -, -⟩, -⟩ := hi
  have hbit0 : s.bitAt 0 0 = false := by rw [State.bitAt, hheader, hheader0]
  refine ⟨⟨hc, hw, hheader, Tmr.noConfusion⟩, Mode.noConfusion, Mode.noConfusion, Mode.noConfusion,
    fun _ => (State.transmittingInv_iff _).mpr ⟨⟨rfl, hie, hifg, hcap, hzero⟩, hout, Nat.zero_le _, rfl, hbit0.symm⟩⟩

/-- At its start a transmission has all the frames of the buffer to send. -/
theorem State.startTransmission_toSend (s : State) : s.startTransmission.toSend = s.frames := by
  have hleft : s.startTransmission.ticksLeft = s.cfg.transmitPeriods := State.ticksLeft_of_start rfl rfl
  rw [State.toSend, hleft, State.startTransmission_cfg, Nat.sub_self, List.drop_zero]
  rfl

/-- A HANDOFF in ARMED, by an event word or by a write of `CMD`, begins the transmission and is no tick (R39, R140). -/
theorem State.Inv.step_handoff (hi : s.Inv) (hm : s.mode = .armed) {h : Stimulus} {rest : List Stimulus}
    (hq : s.inputs = h :: rest) (hw : h.eventWord = some (mkWord .handoff false)) :
    ∃ t, step s = .next t ∧ t.Sending ∧ t.toSend = s.frames ∧ t.inputs = rest := by
  refine ⟨State.startTransmission { s with inputs := rest },
    (step_of_queued_event .handoff hi.cfg_wf hq hw trivial).trans (if_pos hm), ⟨?_, .inl rfl⟩,
    State.startTransmission_toSend _, rfl⟩
  exact State.Inv.startTransmission (s := { s with inputs := rest }) hi hm

end

/-! ### What a capture leaves to send -/

/-- A run in which no step services a tick while TRANSMITTING has an empty line trace (R14). -/
theorem lineTrace_eq_nil {s : State} (n : Nat) (h : ∀ k, k < n → ∃ u, runSteps k s = .next u ∧ u.mode ≠ .transmitting) :
    lineTrace n s = [] := by
  induction n with
  | zero => rfl
  | succ n ih =>
    obtain ⟨u, hu, hm⟩ := h n (Nat.lt_succ_self n)
    have hlast : lineTrace 1 u = [] := by
      unfold lineTrace
      rw [show u.servesTxTick = false by simp [State.servesTxTick, hm]]
      cases step u <;> rfl
    rw [lineTrace_add n 1 s u hu, ih fun k hk => h k (Nat.lt_succ_of_lt hk), hlast]
    rfl

/-- The places of a line trace that its payload keeps: those past the header frame that hold no start or stop bit (R166). -/
def isPayloadPlace (k : Nat) : Bool := decide (10 ≤ k) && k % 10 != 0 && k % 10 != 9

theorem payload_eq (l : List Bool) : payload l = ((List.range l.length).filter isPayloadPlace).map (fun k => l.getD k false) := rfl

/-- The place in the line trace of the `n`-th bit of the payload: the header frame and the frames before its own passed over, then
its start bit (R166). -/
def payloadPlace (n : Nat) : Nat := 10 * (1 + n / 8) + (1 + n % 8)

/-- Of the places of frame `c + 1` the payload keeps those of its data bits (R81, R166). -/
theorem filter_isPayloadPlace_frame (c : Nat) :
    ((List.range 10).map (fun k => c * 10 + 10 + k)).filter isPayloadPlace =
      (List.range 8).map (fun j => payloadPlace (c * 8 + j)) := by
  have hkeep : isPayloadPlace ∘ (fun k => c * 10 + 10 + k) = fun k => k % 10 != 0 && k % 10 != 9 := by
    funext k
    have hle : 10 ≤ c * 10 + 10 + k := by omega
    have hmod : (c * 10 + 10 + k) % 10 = k % 10 := by omega
    simp [isPayloadPlace, hle, hmod]
  have hdata : (List.range 10).filter (fun k => k % 10 != 0 && k % 10 != 9) = (List.range 8).map (fun j => 1 + j) := by decide
  rw [List.filter_map, hkeep, hdata, List.map_map]
  refine List.map_congr_left fun j hj => ?_
  rw [List.mem_range] at hj
  simp only [Function.comp_apply, payloadPlace]
  omega

/-- Of the places of `c + 1` whole frames the payload keeps the data bits of the last `c`, in order (R166). -/
theorem filter_isPayloadPlace_frames (c : Nat) :
    (List.range ((c + 1) * 10)).filter isPayloadPlace = (List.range (c * 8)).map payloadPlace := by
  induction c with
  | zero => decide
  | succ c ih =>
    rw [Nat.succ_mul (c + 1), List.range_add, List.filter_append, ih, Nat.succ_mul c 10, Nat.succ_mul c 8,
      List.range_add, List.map_append, List.map_map]
    exact congrArg _ (filter_isPayloadPlace_frame c)

/-- Without its start and stop bits and the header frame the line trace of a whole buffer is the data bits in capture order (R53,
R166). -/
theorem State.payload_frames (s : State) (hcap : 1 ≤ s.cfg.cap) :
    payload s.frames = (List.range ((s.cfg.cap - 1) * 8)).map (fun n => s.bitAt (1 + n / 8) (n % 8)) := by
  have hcap' : s.cfg.cap - 1 + 1 = s.cfg.cap := Nat.sub_add_cancel hcap
  rw [payload_eq, s.frames_length, Config.transmitPeriods, ← hcap', filter_isPayloadPlace_frames, List.map_map,
    Nat.add_sub_cancel]
  refine List.map_congr_left fun n hn => ?_
  have hlt : payloadPlace n < s.frames.length := by
    rw [List.mem_range] at hn
    rw [s.frames_length, Config.transmitPeriods, payloadPlace]
    omega
  rw [Function.comp_apply, List.getD_eq_getElem _ _ hlt]
  simp only [s.frames_eq_map, List.getElem_map, List.getElem_range, State.lineLevel]
  rw [show payloadPlace n / 10 = 1 + n / 8 by unfold payloadPlace; omega,
    show payloadPlace n % 10 = n % 8 + 1 by unfold payloadPlace; omega]
  exact frame_getD_data _ (by omega)

/-- The payload of what a complete capture has stored is its samples in order (R166). -/
theorem State.HasCaptured.payload_frames {s : State} {ls : List Bool} (h : s.HasCaptured ls)
    (hlen : ls.length = (s.cfg.cap - 1) * 8) : payload s.frames = ls := by
  obtain ⟨hcap, -⟩ := s.cfg.wf_iff.mp h.inv.cfg_wf
  rw [s.payload_frames (by omega), ← hlen]
  refine List.ext_getElem (by simp) fun n hn hn' => ?_
  rw [List.getElem_map, List.getElem_range, h.stored n hn', List.getD_eq_getElem _ _ hn']

/-- A whole capture ends in ARMED with its samples stored, and the line trace stays empty (R14, R124). -/
theorem State.Inv.runSteps_wholeCapture {s : State} (hi : s.Inv) (hm : s.mode = .sampling) (hbyte : s.sbyte = 1) (hbit : s.sbit = 0)
    {l rest : List Stimulus} {d : Bool} (hl : ∀ st ∈ l, st.isTick = true ∨ st.isQuiet = true)
    (hlen : (levels l).length + 1 = (s.cfg.cap - 1) * 8) (hq : s.inputs = l ++ tick d :: rest) :
    ∃ t, runSteps (l.length + 1) s = .next t ∧ t.HasCaptured (levels l ++ [d]) ∧ t.mode = .armed ∧ t.cfg = s.cfg ∧
      t.inputs = rest ∧ lineTrace (l.length + 1) s = [] := by
  obtain ⟨u, hu, hcu, hcfg, hqu⟩ := State.HasCaptured.run hl (hi.hasCaptured_nil hm hbyte hbit) (by simp; omega) hq
  obtain ⟨t, ht, hct, hcfg', hqt⟩ := hcu.step (by rw [hcfg, List.nil_append]; omega) hqu
    (.inl ((tick d).isTick_iff.mpr ⟨d, rfl⟩))
  rw [List.nil_append, levels_tick] at hct
  have hcfg'' := hcfg'.trans hcfg
  refine ⟨t, (runSteps_add l.length 1 s u hu).trans (runSteps_succ_of_next ht 0), hct, hct.mode_armed ?_, hcfg'', hqt,
    lineTrace_eq_nil _ fun k hk => ?_⟩
  · rw [hcfg'', List.length_append, List.length_singleton, hlen]
  · obtain ⟨-, hduring⟩ := captureStoresSamples s l d rest hi hm hbyte hbit hl hlen hq
    obtain ⟨v, hv, hsampling, -⟩ := hduring k (Nat.le_of_lt_succ hk)
    exact ⟨v, hv, by rw [hsampling]; decide⟩

/-- In ARMED what comes before the HANDOFF gives the host its bytes and does nothing else (R101, R175). -/
theorem runSteps_waiting {m : List Stimulus} (hm : ∀ st ∈ m, st.isQuiet = true ∧ st.eventWord ≠ some (mkWord .handoff false)) :
    ∀ {s : State} {rest : List Stimulus}, s.cfg.wf = true → s.mode = .armed → s.edgeIfg = true → s.inputs = m ++ rest →
      ∃ r, runSteps m.length s = .next { s with inputs := rest, hostReads := r } ∧ lineTrace m.length s = [] := by
  induction m with
  | nil =>
    rintro s rest - - - rfl
    exact ⟨s.hostReads, rfl, rfl⟩
  | cons st m ih =>
    intro s rest hc harmed hifg hq
    obtain ⟨hquiet, hno⟩ := hm st List.mem_cons_self
    obtain ⟨r, hr⟩ := step_of_queued_quiet (rest := m ++ rest) hc hifg hq hquiet fun _ => hno
    obtain ⟨r', hrun, hnone⟩ := ih (fun x hx => hm x (List.mem_cons_of_mem _ hx))
      (s := { s with inputs := m ++ rest, hostReads := r }) hc harmed hifg rfl
    have hserves : s.servesTxTick = false := by simp [State.servesTxTick, harmed]
    exact ⟨r', (runSteps_succ_of_next hr m.length).trans hrun,
      (lineTrace_succ_of_not_servesTxTick hserves hr m.length).trans hnone⟩

/-! ### The completing tick -/

/-- The tick that completes the cycle leaves the block IDLE with no edge pending (R160, R161). -/
theorem State.Inv.runSteps_lastStop {s : State} (hi : s.Inv) (hm : s.mode = .transmitting) (hx : s.txs = .stop)
    (hcap : s.txbyte.toNat = s.cfg.cap) {d : Bool} {rest : List Stimulus} (hq : s.inputs = tick d :: rest) :
    ∃ t, runSteps 1 s = .next t ∧ t.Inv ∧ t.mode = .idle ∧ t.edgeIfg = false ∧ t.inputs = rest := by
  have hsending : s.Sending := ⟨hi, .inl hm⟩
  have hone : s.toSend.length = 1 := by rw [hsending.toSend_length, State.ticksLeft_of_stop hm hx, hcap, Nat.sub_self]
  obtain ⟨t, ht, hti, hidle, hclear, hqt, -⟩ := hsending.complete (l := []) (fun _ h => nomatch h) hone.symm hq
  exact ⟨t, ht, hti, hidle, hclear, hqt⟩

/-! ### The obligations on transmissions -/

/-- Settles O42: the hand-off leaves all the frames to send; by induction on the stimuli, each tick sends the next level; the last
tick leaves none, which is the completed cycle. -/
theorem transmissionEmitsFrames : Obligations.TransmissionEmitsFrames := by
  intro s h l d rest hi hm hw hl hlen hq
  obtain ⟨a, ha, hsending, hall, hqa⟩ := hi.step_handoff (rest := l ++ tick d :: rest) hm hq hw
  have hcount : (levels l).length + 1 = a.toSend.length := by rw [hall, s.frames_length, hlen]; rfl
  obtain ⟨t, ht, hti, hidle, hclear, hqt, hline⟩ := hsending.complete hl hcount hqa
  refine ⟨⟨t, (runSteps_succ_of_next ha _).trans ht, hidle, hqt, ?_⟩, ?_, fun k hk => ?_⟩
  · rw [State.idle_statusByte hidle (hti.idle hidle), hclear]
    rfl
  · have hnone : s.servesTxTick = false := by simp [State.servesTxTick, hm]
    exact (lineTrace_succ_of_not_servesTxTick hnone ha _).trans (hline.trans hall)
  · have hsub : (levels (l.take k)).length ≤ (levels l).length := ((List.take_sublist k l).filterMap _).length_le
    have hqk : a.inputs = l.take k ++ (l.drop k ++ tick d :: rest) := by
      rw [hqa, ← List.append_assoc, List.take_append_drop]
    obtain ⟨u, hu, -⟩ := State.Sending.run (fun st hst => hl st (List.mem_of_mem_take hst)) hsending (by omega) hqk
    have hleft := hu.toSend_length
    have hrun := hu.run
    rw [List.length_take_of_le hk] at hrun
    exact ⟨u, (runSteps_succ_of_next ha k).trans hrun, hu.sending.mode_transmitting (by omega)⟩

/-- Settles O43: the capture leaves its samples stored and the line as it was, and so does the wait; the frames that the
transmission then sends have the samples as their payload. -/
theorem captureTransmissionRoundTrip : Obligations.CaptureTransmissionRoundTrip := by
  intro s l m h l' d d' rest hi hm hbyte hbit hl hlen hwait hw hl' hlen' hq
  obtain ⟨t, ht, hct, harmed, hcfg, hqt, hnone⟩ :=
    hi.runSteps_wholeCapture (rest := m ++ (h :: l' ++ tick d' :: rest)) hm hbyte hbit hl hlen (by simpa using hq)
  obtain ⟨-, -, hifg, -⟩ := hct.inv.armed harmed
  obtain ⟨r, hr, hnone'⟩ := runSteps_waiting hwait hct.inv.cfg_wf harmed hifg hqt
  obtain ⟨⟨u, hu, hidle, hqu, -⟩, hframes, -⟩ := transmissionEmitsFrames
    { t with inputs := h :: l' ++ tick d' :: rest, hostReads := r } h l' d' rest hct.inv harmed hw hl' (hcfg ▸ hlen') rfl
  have hrun := (runSteps_add (l.length + 1) m.length s t ht).trans hr
  refine ⟨⟨u, (runSteps_add _ _ s _ hrun).trans hu, hidle, hqu⟩, ?_⟩
  rw [lineTrace_add _ _ s _ hrun, lineTrace_add _ _ s t ht, hnone, hnone', hframes]
  refine hct.payload_frames ?_
  rw [hcfg, List.length_append, List.length_singleton, hlen]

/-- Settles O39: the edge before the tick is pending already, and the tick clears it; after the tick the block is IDLE with edges
enabled, so the edge enables `ESVC`. -/
theorem edgeRacesCompletion : Obligations.EdgeRacesCompletion := by
  intro s d rest hi hm hx hcap
  constructor
  · obtain ⟨-, -, hifg, -⟩ := hi.transmitting hm
    have hedge := step_of_queued_edge (s := { s with inputs := .word (mkWord .edge false) :: tick d :: rest }) hi.cfg_wf rfl
    rw [State.latchEdge_of_pending (s := { s with inputs := tick d :: rest }) hifg] at hedge
    obtain ⟨t, ht, hti, hidle, hclear, -⟩ :=
      State.Inv.runSteps_lastStop (s := { s with inputs := tick d :: rest }) hi hm hx hcap rfl
    refine ⟨t, (runSteps_succ_of_next hedge 1).trans ht, hidle, hclear, ?_, ?_⟩
    · simp [State.enabled, State.esvcEnabled, hclear]
    · rw [State.idle_statusByte hidle (hti.idle hidle), hclear]
      rfl
  · obtain ⟨t, ht, hti, hidle, -, hqt⟩ := State.Inv.runSteps_lastStop
      (s := { s with inputs := tick d :: .word (mkWord .edge false) :: rest }) hi hm hx hcap rfl
    have hedge := step_of_queued_edge hti.cfg_wf hqt
    obtain ⟨-, hie, -⟩ := hti.idle hidle
    refine ⟨_, (runSteps_add 1 1 _ t ht).trans (runSteps_succ_of_next hedge 0), hidle, rfl, ?_, ?_⟩
    · simp [State.enabled, State.esvcEnabled, hie, hidle]
    · exact State.idle_statusByte (s := State.latchEdge { t with inputs := rest }) hidle (hti.idle hidle)

end Sys2Proof.Machine
end

section
/-! The arbiter family (44_arbiter.md): the invariant through every step and every run, the changes of `MODE`, the role of the timer,
and the status read. -/

namespace Sys2Proof

/-- Operations with the same word are operations of the same event (R73). -/
theorem Instr.evt_eq_of_word_eq {i j : Instr} (h : i.word = j.word) : i.evt = j.evt := by
  have hfields := i.word_fields
  rw [h, j.word_fields, Option.some_inj] at hfields
  exact (congrArg Prod.fst hfields).symm

/-- A word selects at most one operation (R76). -/
theorem Instr.eq_of_word_eq {i j : Instr} {m : Mode} {x : Txs} (h : i.word = j.word) (hi : i.Selected m x)
    (hj : j.Selected m x) : i = j :=
  Except.ok.inj (((decodeFields_ok_iff i.word m x i).mpr ⟨rfl, hi⟩).symm.trans ((decodeFields_ok_iff i.word m x j).mpr ⟨h, hj⟩))

/-- An illegal word is rejected as one (R78). -/
theorem decodeFields_of_fields_none {ew : EventWord} (hf : ew.fields = none) (m : Mode) (x : Txs) :
    decodeFields ew m x = .error .illegalEventWord := by
  simp [decodeFields, hf]

/-- The operation of a tick is the sampler's in SAMPLING or the transmitter's in TRANSMITTING (R172). -/
theorem decodeTick_ok_cases {d : Bool} {m : Mode} {x : Txs} {i : Instr} (h : decodeTick d m x = .ok i) :
    i = .tickSmp d ∧ m = .sampling ∨ (i = .tickTxStart d ∨ i = .tickTxData d ∨ i = .tickTxStop d) ∧ m = .transmitting := by
  cases m with
  | idle | armed => cases h
  | sampling => cases h; exact .inl ⟨rfl, rfl⟩
  | transmitting =>
    cases x with
    | start => cases h; exact .inr ⟨.inl rfl, rfl⟩
    | data => cases h; exact .inr ⟨.inr (.inl rfl), rfl⟩
    | stop => cases h; exact .inr ⟨.inr (.inr rfl), rfl⟩
    | reserved => cases h

/-- The setting of the timer in each mode (R30, R177). -/
def Mode.timer : Mode → Tmr
  | .idle => .stop
  | .sampling => .sample
  | .armed => .stop
  | .transmitting => .bit

namespace Machine

/-! ### The invariant through a step -/

/-- In IDLE the invariant asks for the common row and the row of IDLE alone. -/
theorem State.Inv.of_idle {s : State} (hc : s.CommonInv) (hm : s.mode = .idle) (h : s.IdleInv) : s.Inv :=
  ⟨hc, fun _ => h, by simp [hm], by simp [hm], by simp [hm]⟩

/-- A RESET leads to a state of the invariant from every admitted configuration and canonical buffer (R40, R230). -/
theorem State.powerCycle_inv (s : State) (hc : s.cfg.wf = true) (hw : Memory.wf s.cfg s.buf) : s.powerCycle.Inv :=
  .of_idle ⟨hc, s.powerCycle_buf_wf hc hw, s.powerCycle_byteAt_zero hw, Tmr.noConfusion⟩ rfl ⟨rfl, rfl, rfl, rfl, rfl⟩

/-- During a cycle edges are disabled and the one that began it is still latched (R104, R176). -/
theorem State.Inv.edges_of_cycle {s : State} (h : s.Inv) (hm : s.mode ≠ .idle) : s.edgeIe = false ∧ s.edgeIfg = true := by
  cases hmode : s.mode with
  | idle => exact absurd hmode hm
  | sampling => obtain ⟨-, hie, hifg, -⟩ := h.sampling hmode; exact ⟨hie, hifg⟩
  | armed => obtain ⟨-, hie, hifg, -⟩ := h.armed hmode; exact ⟨hie, hifg⟩
  | transmitting => obtain ⟨-, hie, hifg, -⟩ := h.transmitting hmode; exact ⟨hie, hifg⟩

/-- An edge keeps the invariant: in IDLE no row speaks of `EDGE_IFG`, and in a cycle it is set already (R101, R104). -/
theorem State.Inv.latchEdge {s : State} (h : s.Inv) : s.latchEdge.Inv := by
  by_cases hm : s.mode = .idle
  · have hrow := h.idle hm
    obtain ⟨hcommon, -⟩ := h
    exact .of_idle hcommon hm hrow
  · obtain ⟨-, hifg⟩ := h.edges_of_cycle hm
    rwa [State.latchEdge_of_pending hifg]

/-- An enabled `ESVC` leads to a state of the invariant: the edge it services is latched (R102, R103). -/
theorem State.Inv.arm {s : State} (h : s.Inv) (he : s.enabled .esvc = true) : s.arm.Inv := by
  have hm := s.mode_of_enabled_esvc he
  simp only [State.enabled, State.esvcEnabled, Bool.and_eq_true] at he
  obtain ⟨⟨-, hifg⟩, -⟩ := he
  have harm := h.latchEdge_arm hm
  rwa [State.latchEdge_of_pending hifg] at harm

/-- Every operation keeps the invariant. -/
theorem State.Inv.exec_next {s t : State} (h : s.Inv) {i : Instr} (ht : exec i s = .next t) : t.Inv := by
  cases i with
  | reset =>
    cases ht
    obtain ⟨⟨hc, hw, -⟩, -⟩ := h
    exact s.powerCycle_inv hc hw
  | edge => cases ht; exact h.latchEdge
  | esvc => obtain ⟨he, rfl⟩ := execEsvc_next s t ht; exact h.arm he
  | tickSmp d => obtain ⟨hm, -, rfl⟩ := execTickSmp_next_sampled ht; exact h.sampleTick hm d
  | tickTxStart d => obtain ⟨hm, hx, -, rfl⟩ := execTickTxStart_next d s t ht; exact h.sendStart hm hx
  | tickTxData d => obtain ⟨hm, hx, -, rfl⟩ := execTickTxData_next d s t ht; exact h.sendData hm hx
  | tickTxStop d => obtain ⟨hm, hx, -, rfl⟩ := execTickTxStop_next d s t ht; exact h.sendStop hm hx
  | handoff =>
    obtain ⟨hm, rfl⟩ | ⟨-, rfl⟩ := execHandoff_next s t ht
    · exact h.startTransmission hm
    · exact h
  | status => cases ht; exact h

theorem State.Inv.hostAccess {s : State} (h : s.Inv) (st : Stimulus) : (s.hostAccess st).Inv := by
  cases st <;> exact h

/-- Settles O31: a step performs a host access, which leaves the block alone, or one operation, which keeps the invariant. -/
theorem everyStepKeepsInvariant : Obligations.EveryStepKeepsInvariant := by
  intro s t hi ht
  obtain ⟨-, ⟨-, rfl⟩ | ⟨i, -, -, hx⟩⟩ := step_next s t ht
  · exact hi.taken.hostAccess _
  · exact hi.taken.exec_next hx

/-- Every run keeps the invariant. -/
theorem State.Inv.runSteps_next {s t : State} {k : Nat} (h : s.Inv) (ht : runSteps k s = .next t) : t.Inv := by
  induction k generalizing s with
  | zero => cases ht; exact h
  | succ k ih =>
    rw [runSteps] at ht
    split at ht
    · next u hu => exact ih (everyStepKeepsInvariant s u h hu) ht
    · cases ht
    · cases ht

/-! ### Where a step stops -/

/-- The step of a word that selects no operation stops for the reason that the dispatch gives (R79). -/
theorem step_of_reject {s : State} {ew : EventWord} {r : Reject} (hc : s.cfg.wf = true)
    (hw : s.nextStimulus.eventWord = some ew) (h : decodeFields ew s.mode s.txs = .error r) :
    step s = s.taken.stopped ew r := by
  simp only [step, hc, if_true, hw, h]

/-- The step of an event that is not enabled stops for that reason (R205, entry 10). -/
theorem step_of_disabled {s : State} {ew : EventWord} {e : Evt} {d : Bool} (hc : s.cfg.wf = true)
    (hw : s.nextStimulus.eventWord = some ew) (hf : ew.fields = some (e, d)) (he : s.enabled e = false) :
    step s = .fault (.notEnabled (s.key ew)) := by
  rw [← s.taken_enabled] at he
  rw [← s.taken_key]
  cases hdec : decodeFields ew s.mode s.txs with
  | ok i =>
    obtain ⟨rfl, hs⟩ := (decodeFields_ok_iff ew s.mode s.txs i).mp hdec
    cases i.word_fields.symm.trans hf
    exact (step_of_selected s i hc hw hs).trans (exec_of_disabled i s.taken (by simpa using hs) he)
  | error r => exact (step_of_reject hc hw hdec).trans (State.stopped_of_disabled hf he (by simpa using hdec))

/-- From a state of the invariant a step completes, or its event is not enabled, or its word is illegal: no other stop is reached. -/
theorem State.Inv.step_cases {s : State} (h : s.Inv) : (∃ t, step s = .next t) ∨ (∃ dk, step s = .fault (.notEnabled dk)) ∨
    ∃ dk, step s = .refused (.illegalEventWord dk) := by
  cases hw : s.nextStimulus.eventWord with
  | none => exact .inl ⟨_, step_of_no_event s h.cfg_wf hw⟩
  | some ew =>
    cases hf : ew.fields with
    | none => exact .inr (.inr ⟨_, step_of_reject h.cfg_wf hw (decodeFields_of_fields_none hf _ _)⟩)
    | some p =>
      obtain ⟨e, d⟩ := p
      cases he : s.enabled e with
      | false => exact .inr (.inl ⟨_, step_of_disabled h.cfg_wf hw hf he⟩)
      | true =>
        refine .inl (enabledEventsNeverFault s h fun ew' hw' => ?_)
        cases hw.symm.trans hw'
        exact ⟨e, d, hf, he⟩

/-! ### The role of the timer -/

/-- In a state of the invariant the mode fixes the timer (R176, R177). -/
theorem State.Inv.tmr_eq {s : State} (h : s.Inv) : s.tmr = s.mode.timer := by
  cases hm : s.mode with
  | idle => exact (h.idle hm).1
  | sampling => exact (h.sampling hm).1
  | armed => exact (h.armed hm).1
  | transmitting => exact (h.transmitting hm).1

/-- Settles O32: a RESET establishes the invariant and a run keeps it; the mode then fixes the flag and the timer, and a step reaches
no fault but that of an event not enabled. -/
theorem reachableStatesSatisfyInvariant : Obligations.ReachableStatesSatisfyInvariant := by
  intro s r t k hc hw hr ht
  cases hr
  have hi : t.Inv := (s.powerCycle_inv hc hw).runSteps_next ht
  refine ⟨hi, fun hie => ?_, fun hrun => ?_, fun dk => ?_⟩
  · by_contra hm
    obtain ⟨hoff, -⟩ := hi.edges_of_cycle hm
    exact Bool.false_ne_true (hoff.symm.trans hie)
  · rw [hi.tmr_eq] at hrun
    cases hm : t.mode with
    | idle | armed => exact absurd (congrArg Mode.timer hm) hrun
    | sampling => exact .inl rfl
    | transmitting => exact .inr rfl
  · rcases hi.step_cases with ⟨u, hu⟩ | ⟨dk', hu⟩ | ⟨dk', hu⟩ <;> rw [hu] <;> exact ⟨nofun, nofun⟩

/-- Settles O35: the mode fixes the timer, and different roles have different settings; a tick's row fixes its mode. -/
theorem oneRoleAtATime : Obligations.OneRoleAtATime := by
  refine ⟨fun s hi => ?_, fun d m x i h => ?_⟩
  · rw [hi.tmr_eq]
    cases s.mode <;> simp [Mode.timer, Config.tickHz]
  · rcases decodeTick_ok_cases h with ⟨hi, hm⟩ | ⟨hi | hi | hi, hm⟩
    · exact .inl ⟨⟨d, hi⟩, hm⟩
    · exact .inr ⟨.inl ⟨d, hi⟩, hm⟩
    · exact .inr ⟨.inr (.inl ⟨d, hi⟩), hm⟩
    · exact .inr ⟨.inr (.inr ⟨d, hi⟩), hm⟩

/-- The step of a queued tick that no row selects faults where the tick is enabled (R173, R174). -/
theorem step_of_unselected_tick {s : State} {d : Bool} {rest : List Stimulus} (hc : s.cfg.wf = true)
    (hq : s.inputs = tick d :: rest) (he : s.enabled .tick = true) :
    (s.mode = .idle ∨ s.mode = .armed → step s = .fault (.tickOutOfCycle (s.key (mkWord .tick d)))) ∧
      (s.mode = .transmitting → s.txs = .reserved → step s = .fault (.reservedTxState (s.key (mkWord .tick d)))) := by
  have hreject : ∀ r, decodeTick d s.mode s.txs = .error r →
      step s = State.stopped { s with inputs := rest } (mkWord .tick d) r := fun r h =>
    step_of_queued_reject hc hq ((decodeFields_tick d s.mode s.txs).trans h)
  refine ⟨fun hm => ?_, fun hm hx => ?_⟩
  · refine (hreject .tickOutOfCycle ?_).trans (if_pos he)
    rcases hm with hm | hm <;> rw [hm] <;> rfl
  · refine (hreject .reservedTxState ?_).trans (if_pos he)
    rw [hm, hx]
    rfl

/-- Settles O4: a tick that no row selects stops as the dispatch says; the invariant gives an enabled tick its role. -/
theorem unselectedTicksFault : Obligations.UnselectedTicksFault := by
  refine ⟨fun s d rest hc hq he => step_of_unselected_tick hc hq he, fun s hi => ⟨fun hm => ?_, fun hm => ?_⟩⟩
  · refine eq_false_of_ne_true fun he => ?_
    rcases hm with hm | hm <;> simpa [hm] using hi.tick_role he
  · obtain ⟨-, -, -, -, -, hres, -⟩ := hi.transmitting hm
    exact hres

/-! ### The changes of `MODE` -/

/-- What an operation can do to `MODE`: nothing, or one of the five changes of R170 with all that it writes. -/
theorem exec_mode_cases {i : Instr} {s t : State} (h : exec i s = .next t) : t.mode = s.mode ∨
    (i = .esvc ∧ s.mode = .idle ∧ t = s.arm) ∨
    (i.evt = .tick ∧ s.mode = .sampling ∧ s.sbit = 7 ∧ (s.sbyte + 1).toNat = s.cfg.cap ∧ t.mode = .armed ∧ t.tmr = .stop) ∨
    (i = .handoff ∧ s.mode = .armed ∧ t = s.startTransmission) ∨
    (i.evt = .tick ∧ s.mode = .transmitting ∧ s.txs = .stop ∧ s.txbyte.toNat = s.cfg.cap ∧
      t = ((s.drive true).setTxs .start).finishCycle) ∨
    (i = .reset ∧ t = s.powerCycle) := by
  cases i with
  | reset => cases h; exact .inr (.inr (.inr (.inr (.inr ⟨rfl, rfl⟩))))
  | edge | status => cases h; exact .inl rfl
  | esvc =>
    obtain ⟨he, rfl⟩ := execEsvc_next s t h
    exact .inr (.inl ⟨rfl, s.mode_of_enabled_esvc he, rfl⟩)
  | tickSmp d =>
    obtain ⟨hm, -, rfl⟩ := execTickSmp_next_sampled h
    rcases (s.sampled d).advanceSample_cases with ⟨-, ht⟩ | ⟨h7, hf, ht⟩ | ⟨-, -, ht⟩ <;> rw [ht]
    · exact .inl rfl
    · exact .inr (.inr (.inl ⟨rfl, hm, h7, hf, rfl, rfl⟩))
    · exact .inl rfl
  | tickTxStart d => obtain ⟨-, -, -, rfl⟩ := execTickTxStart_next d s t h; exact .inl rfl
  | tickTxData d => obtain ⟨-, -, -, rfl⟩ := execTickTxData_next d s t h; exact .inl s.sendData_mode
  | tickTxStop d =>
    obtain ⟨hm, hx, -, rfl⟩ := execTickTxStop_next d s t h
    by_cases heq : s.txbyte.toNat = s.cfg.cap
    · exact .inr (.inr (.inr (.inr (.inl ⟨rfl, hm, hx, heq, s.sendStop_of_eq heq⟩))))
    · exact .inl (State.sameOutsideTx_sendStop heq).mode
  | handoff =>
    obtain ⟨hm, rfl⟩ | ⟨-, rfl⟩ := execHandoff_next s t h
    · exact .inr (.inr (.inr (.inl ⟨rfl, hm, rfl⟩)))
    · exact .inl rfl

@[simp] theorem State.hostAccess_mode (s : State) (st : Stimulus) : (s.hostAccess st).mode = s.mode := by
  cases st <;> rfl

/-- Settles O34: a step that changes `MODE` ran an operation that does, and its word is the stimulus. -/
theorem modeChangesFollowTable : Obligations.ModeChangesFollowTable := by
  intro s t ht hne
  obtain ⟨-, ⟨-, rfl⟩ | ⟨i, hw, -, hx⟩⟩ := step_next s t ht
  · exact absurd (by simp) hne
  · have hcases := exec_mode_cases hx
    simp only [State.taken_mode, State.taken_sbit, State.taken_sbyte, State.taken_cfg, State.taken_txs, State.taken_txbyte]
      at hcases
    rcases hcases with hm | ⟨rfl, hm, rfl⟩ | ⟨he, hm, h7, hf, harmed, htmr⟩ | ⟨rfl, hm, rfl⟩ | ⟨he, hm, hxs, hcap, rfl⟩ |
      ⟨rfl, rfl⟩
    · exact absurd hm hne
    · exact .inl ⟨hm, hw, rfl, rfl, rfl⟩
    · exact .inr (.inl ⟨hm, Stimulus.isTick_of_word hw he, h7, hf, harmed, htmr, by rw [State.ready_eq_decide, harmed]; rfl⟩)
    · exact .inr (.inr (.inl ⟨hm, hw, rfl, rfl, rfl⟩))
    · exact .inr (.inr (.inr (.inl ⟨hm, Stimulus.isTick_of_word hw he, hxs, hcap, rfl, rfl, rfl, rfl⟩)))
    · exact .inr (.inr (.inr (.inr ⟨hw, rfl, rfl, rfl, rfl, rfl, rfl, rfl⟩)))

/-! ### The status read and the reset state -/

/-- Settles O13: `STATUS` gives the byte of R38; its keys are those of its row; the invariant fixes the byte in ARMED. -/
theorem statusReturnsStatusByte : Obligations.StatusReturnsStatusByte := by
  refine ⟨fun s => ?_, fun k => (decode_ok_iff_pattern k .status).mpr, rfl, rfl, fun s hi hm => ?_⟩
  · rw [← s.ready_eq_decide]
    rfl
  · rw [← hi.armed_statusByte hm]
    rfl

/-- Settles O30: the reset state is a literal of the row of IDLE, with a buffer that lists nothing. -/
theorem resetStateSatisfiesInvariant : Obligations.ResetStateSatisfiesInvariant :=
  .of_idle ⟨rfl, reset_buf_wf, rfl, Tmr.noConfusion⟩ rfl ⟨rfl, rfl, rfl, rfl, rfl⟩

end Machine

end Sys2Proof
end

section
/-! The arbiter family (44_arbiter.md): the ticks that a cycle still takes, and that every cycle ends in a fair run (R178, R244). -/

namespace Sys2Proof

/-- How many hand-offs a cycle in this mode still takes (R170). -/
def Mode.handoffsLeft : Mode → Nat
  | .idle => 0
  | .sampling => 1
  | .armed => 1
  | .transmitting => 0

namespace Machine

/-! ### The ticks that are left -/

@[simp] theorem State.hostAccess_ticksLeft (s : State) (st : Stimulus) : (s.hostAccess st).ticksLeft = s.ticksLeft := by
  cases st <;> rfl

@[simp] theorem State.taken_ticksLeft (s : State) : s.taken.ticksLeft = s.ticksLeft := by
  unfold State.taken
  split <;> rfl

section
variable {s t : State}

theorem State.ticksLeft_of_sampling (hm : s.mode = .sampling) :
    s.ticksLeft = s.cfg.captureBits - s.captured + s.cfg.transmitPeriods := by
  simp [State.ticksLeft, hm]

theorem State.ticksLeft_of_armed (hm : s.mode = .armed) : s.ticksLeft = s.cfg.transmitPeriods := by
  simp [State.ticksLeft, hm]

/-- A transmission takes at least one tick: its buffer holds the header at least (R5, R165). -/
theorem State.Inv.transmitPeriods_pos (hi : s.Inv) : 0 < s.cfg.transmitPeriods := by
  obtain ⟨hcap, -⟩ := s.cfg.wf_iff.mp hi.cfg_wf
  unfold Config.transmitPeriods
  omega

/-- None are left exactly in IDLE (R178). -/
theorem State.Inv.ticksLeft_eq_zero_iff (hi : s.Inv) : s.ticksLeft = 0 ↔ s.mode = .idle := by
  refine ⟨fun hzero => ?_, State.ticksLeft_of_idle⟩
  have hpos := hi.transmitPeriods_pos
  cases hm : s.mode with
  | idle => rfl
  | sampling => rw [State.ticksLeft_of_sampling hm] at hzero; omega
  | armed => rw [State.ticksLeft_of_armed hm] at hzero; omega
  | transmitting =>
    obtain ⟨hleft, -⟩ := hi.ticksLeft_transmitting hm
    omega

/-- A sampling tick takes one of the ticks left: it counts one more bit, and with the last one the cursor stands at `CAP` (R124, R125). -/
theorem State.Inv.ticksLeft_sampleTick (hi : s.Inv) (hm : s.mode = .sampling) (d : Bool) :
    (s.sampled d).advanceSample.ticksLeft + 1 = s.ticksLeft := by
  obtain ⟨-, hmax, -⟩ := s.cfg.wf_iff.mp hi.cfg_wf
  obtain ⟨-, -, -, h1, hle, -⟩ := hi.sampling hm
  have hbit : s.sbit.toNat < 8 := s.sbit.isLt
  have hcfg : (s.sampled d).advanceSample.cfg = s.cfg := State.advanceSample_cfg _
  have hcount : (s.sampled d).advanceSample.captured = s.captured + 1 :=
    (s.sampled d).advanceSample_captured h1 (show s.sbyte.toNat < 255 by omega)
  have hlt : s.captured < s.cfg.captureBits := by
    unfold State.captured Config.captureBits
    omega
  rw [State.ticksLeft_of_sampling hm]
  rcases s.sampled_advance_mode hm d with hm' | hm'
  · rw [State.ticksLeft_of_sampling hm', hcfg, hcount]
    omega
  · obtain ⟨-, -, -, hcap, hzero, -⟩ := (hi.sampleTick hm d).armed hm'
    have hfull : (s.sampled d).advanceSample.captured = s.cfg.captureBits := by
      rw [State.captured, hcap, hzero, hcfg]
      rfl
    rw [State.ticksLeft_of_armed hm', hcfg]
    omega

/-- A transmit tick takes one of the ticks left: it sends one of the levels that are still to send (R165). -/
theorem State.Inv.ticksLeft_txTick (hi : s.Inv) (hm : s.mode = .transmitting) {i : Instr} (he : i.evt = .tick)
    (ht : exec i s = .next t) : t.ticksLeft + 1 = s.ticksLeft := by
  obtain ⟨j, u, hword, hsel, hu, hsending, hline⟩ := hi.exists_sendTick hm i.dataBit
  obtain ⟨hs, -⟩ := exec_next_selected ht
  obtain rfl : i = j := Instr.eq_of_word_eq (by rw [← hword, Instr.word, he]) hs hsel
  cases ht.symm.trans hu
  have hstart : s.Sending := ⟨hi, .inl hm⟩
  rw [← hstart.toSend_length, hline, List.length_cons, hsending.toSend_length]

/-- Every tick takes one of the ticks left (R178). -/
theorem State.Inv.ticksLeft_tick (hi : s.Inv) {i : Instr} (he : i.evt = .tick) (ht : exec i s = .next t) :
    t.ticksLeft + 1 = s.ticksLeft := by
  obtain ⟨-, henabled⟩ := exec_next_selected ht
  rcases hi.tick_role (he ▸ henabled) with hm | ⟨hm, -⟩
  · cases i with
    | tickSmp d =>
      obtain ⟨-, -, rfl⟩ := execTickSmp_next_sampled ht
      exact hi.ticksLeft_sampleTick hm d
    | tickTxStart | tickTxData | tickTxStop =>
      obtain ⟨⟨hm', -⟩, -⟩ := exec_next_selected ht
      exact absurd (hm.symm.trans hm') (by decide)
    | reset | edge | esvc | handoff | status => cases he
  · exact hi.ticksLeft_txTick hm he ht

/-- At its start a cycle takes the ticks of a capture and of a transmission (R103, R178). -/
theorem State.Inv.ticksLeft_arm (hi : s.Inv) (hm : s.mode = .idle) :
    s.arm.ticksLeft = (s.cfg.cap - 1) * 8 + 10 * s.cfg.cap := by
  obtain ⟨-, -, hbyte, hbit, -⟩ := hi.idle hm
  have hnone : s.arm.captured = 0 := by simp [State.captured, hbyte, hbit]
  rw [State.ticksLeft_of_sampling (s := s.arm) rfl, hnone, Nat.sub_zero, Nat.mul_comm 10]
  rfl

/-- A HANDOFF takes no tick: the transmission that it begins in ARMED takes those that were left (R140, R141). -/
theorem ticksLeft_handoff (ht : exec .handoff s = .next t) : t.ticksLeft = s.ticksLeft := by
  obtain ⟨hm, rfl⟩ | ⟨-, rfl⟩ := execHandoff_next s t ht
  · rw [State.ticksLeft_of_armed hm]
    exact State.ticksLeft_of_start rfl rfl
  · rfl

/-- A step on the word of an event performs an operation of that event (R75). -/
theorem exists_exec_of_step_next (ht : step s = .next t) {j : Instr} (hw : s.nextStimulus.eventWord = some j.word) :
    ∃ i : Instr, i.evt = j.evt ∧ exec i s.taken = .next t := by
  obtain ⟨-, ⟨hnone, -⟩ | ⟨i, hword, -, hx⟩⟩ := step_next s t ht
  · cases hnone.symm.trans hw
  · exact ⟨i, Instr.evt_eq_of_word_eq (Option.some.inj (hword.symm.trans hw)), hx⟩

/-- A serviced tick takes one of the ticks left (R178). -/
theorem State.Inv.ticksLeft_step_tick (hi : s.Inv) (ht : step s = .next t) (htick : s.nextStimulus.isTick = true) :
    t.ticksLeft + 1 = s.ticksLeft := by
  obtain ⟨d, hw⟩ := s.nextStimulus.isTick_iff.mp htick
  obtain ⟨i, he, hx⟩ := exists_exec_of_step_next (j := .tickSmp d) ht hw
  simpa using hi.taken.ticksLeft_tick he hx

/-- A serviced `ESVC` found the block in IDLE and begins a cycle (R102, R103). -/
theorem State.Inv.ticksLeft_step_esvc (hi : s.Inv) (ht : step s = .next t)
    (hw : s.nextStimulus.eventWord = some (mkWord .esvc false)) :
    s.mode = .idle ∧ t.ticksLeft = (s.cfg.cap - 1) * 8 + 10 * s.cfg.cap := by
  obtain ⟨i, he, hx⟩ := exists_exec_of_step_next (j := .esvc) ht hw
  cases i with
  | esvc =>
    obtain ⟨henabled, rfl⟩ := execEsvc_next _ _ hx
    have hm := s.taken.mode_of_enabled_esvc henabled
    exact ⟨by simpa using hm, by simpa using hi.taken.ticksLeft_arm hm⟩
  | reset | edge | tickSmp | tickTxStart | tickTxData | tickTxStop | handoff | status => cases he

/-- A serviced RESET leaves the block in IDLE (R207, R230). -/
theorem mode_idle_of_step_reset (ht : step s = .next t) (hw : s.nextStimulus.eventWord = some (mkWord .reset false)) :
    t.mode = .idle := by
  obtain ⟨i, he, hx⟩ := exists_exec_of_step_next (j := .reset) ht hw
  cases i with
  | reset => cases hx; rfl
  | edge | esvc | tickSmp | tickTxStart | tickTxData | tickTxStop | handoff | status => cases he

/-- Every other stimulus leaves the count of ticks as it is (R178). -/
theorem ticksLeft_step_other (ht : step s = .next t) (htick : s.nextStimulus.isTick = false)
    (hesvc : s.nextStimulus.eventWord ≠ some (mkWord .esvc false))
    (hreset : s.nextStimulus.eventWord ≠ some (mkWord .reset false)) : t.ticksLeft = s.ticksLeft := by
  obtain ⟨-, ⟨-, rfl⟩ | ⟨i, hw, -, hx⟩⟩ := step_next s t ht
  · simp
  · rw [← s.taken_ticksLeft]
    cases i with
    | reset => exact absurd hw hreset
    | esvc => exact absurd hw hesvc
    | tickSmp | tickTxStart | tickTxData | tickTxStop =>
      exact absurd (htick.symm.trans (Stimulus.isTick_of_word hw rfl)) Bool.false_ne_true
    | edge | status => cases hx; rfl
    | handoff => exact ticksLeft_handoff hx

end

/-- Settles O45: each kind of stimulus has its own effect on the count. -/
theorem ticksOfACycleCountDown : Obligations.TicksOfACycleCountDown := by
  intro s t hi ht
  refine ⟨hi.ticksLeft_eq_zero_iff, hi.ticksLeft_step_tick ht, fun hw => ?_, fun hw => ?_, ticksLeft_step_other ht⟩
  · obtain ⟨hm, hcount⟩ := hi.ticksLeft_step_esvc ht hw
    exact ⟨State.ticksLeft_of_idle hm, hcount⟩
  · exact State.ticksLeft_of_idle (mode_idle_of_step_reset ht hw)

/-! ### The events that bring a cycle to its end -/

/-- The next stimulus brings the cycle forward: it is a tick, or in ARMED a HANDOFF (R178). -/
def State.Advances (s : State) : Prop :=
  s.nextStimulus.isTick = true ∨ s.mode = .armed ∧ s.nextStimulus.eventWord = some (mkWord .handoff false)

/-- How many ticks and hand-offs the cycle in progress still takes. -/
def State.advancesLeft (s : State) : Nat := s.ticksLeft + s.mode.handoffsLeft

section
variable {s t : State}

/-- Outside IDLE no change of `MODE` brings the hand-off of the cycle back (R170). -/
theorem handoffsLeft_le_of_step (hm : s.mode ≠ .idle) (ht : step s = .next t) : t.mode.handoffsLeft ≤ s.mode.handoffsLeft := by
  by_cases heq : t.mode = s.mode
  · rw [heq]
  · rcases modeChangesFollowTable s t ht heq with ⟨hidle, -⟩ | ⟨hs, -, -, -, harmed, -⟩ | ⟨hs, -, htx, -⟩ |
      ⟨-, -, -, -, hidle, -⟩ | ⟨-, hidle, -⟩
    · exact absurd hidle hm
    · rw [hs, harmed]
      exact Nat.le_refl 1
    · rw [hs, htx]
      exact Nat.zero_le 1
    · rw [hidle]
      exact Nat.zero_le _
    · rw [hidle]
      exact Nat.zero_le _

/-- A HANDOFF serviced in ARMED begins the transmission, which takes the ticks that were left (R140). -/
theorem mode_ticksLeft_of_step_handoff (hm : s.mode = .armed) (ht : step s = .next t)
    (hw : s.nextStimulus.eventWord = some (mkWord .handoff false)) : t.mode = .transmitting ∧ t.ticksLeft = s.ticksLeft := by
  obtain ⟨hc, -⟩ := step_next s t ht
  have hx : exec .handoff s.taken = .next t := (step_of_selected s .handoff hc hw trivial).symm.trans ht
  have hcount := ticksLeft_handoff hx
  obtain ⟨-, rfl⟩ | ⟨hne, -⟩ := execHandoff_next _ _ hx
  · exact ⟨rfl, hcount.trans s.taken_ticksLeft⟩
  · exact absurd (s.taken_mode.trans hm) hne

/-- An advance leaves fewer ticks and hand-offs for the cycle to take. -/
theorem State.Inv.advancesLeft_lt (hi : s.Inv) (hm : s.mode ≠ .idle) (ht : step s = .next t) (ha : s.Advances) :
    t.advancesLeft < s.advancesLeft := by
  unfold State.advancesLeft
  rcases ha with htick | ⟨harmed, hw⟩
  · have hcount := hi.ticksLeft_step_tick ht htick
    have hle := handoffsLeft_le_of_step hm ht
    omega
  · obtain ⟨hmode, hcount⟩ := mode_ticksLeft_of_step_handoff harmed ht hw
    rw [hmode, hcount, harmed]
    exact Nat.lt_succ_self s.ticksLeft

/-- Every other event of a cycle leaves its mode and its count as they are, but for a RESET, which ends the cycle (R170, R207). -/
theorem State.Inv.idle_or_same_of_not_advances (hi : s.Inv) (hm : s.mode ≠ .idle) (ht : step s = .next t) (ha : ¬ s.Advances) :
    t.mode = .idle ∨ t.mode = s.mode ∧ t.advancesLeft = s.advancesLeft := by
  by_cases hreset : s.nextStimulus.eventWord = some (mkWord .reset false)
  · exact .inl (mode_idle_of_step_reset ht hreset)
  · have hesvc : s.nextStimulus.eventWord ≠ some (mkWord .esvc false) := fun hw => by
      obtain ⟨hidle, -⟩ := hi.ticksLeft_step_esvc ht hw
      exact hm hidle
    have htick : s.nextStimulus.isTick = false := eq_false_of_ne_true fun h => ha (.inl h)
    have hmode : t.mode = s.mode := by
      by_contra hne
      rcases modeChangesFollowTable s t ht hne with ⟨hidle, -⟩ | ⟨-, h, -⟩ | ⟨harmed, hw, -⟩ | ⟨-, h, -⟩ | ⟨hw, -⟩
      · exact hm hidle
      · exact ha (.inl h)
      · exact ha (.inr ⟨harmed, hw⟩)
      · exact ha (.inl h)
      · exact hreset hw
    refine .inr ⟨hmode, ?_⟩
    rw [State.advancesLeft, State.advancesLeft, hmode, ticksLeft_step_other ht htick hesvc hreset]

/-- In both roles the timer runs (R177). -/
theorem State.Inv.enabled_tick_of_role (hi : s.Inv) (hidle : s.mode ≠ .idle) (harmed : s.mode ≠ .armed) :
    s.enabled .tick = true := by
  cases hm : s.mode with
  | idle => exact absurd hm hidle
  | sampling => exact hi.enabled_tick hm
  | armed => exact absurd hm harmed
  | transmitting => exact hi.enabled_txTick hm

end

/-! ### Fair runs -/

/-- A run from a state of the invariant in which ticks are fair and the host hands off (R234, R244). -/
structure FairRun (σ : Nat → State) (ε : Nat → EventWord) : Prop where
  start : (σ 0).Inv
  run : EventRun σ ε
  ticks : FairTicks σ ε
  duty : HostDuty σ ε

section
variable {σ : Nat → State} {ε : Nat → EventWord}

theorem FairRun.inv (h : FairRun σ ε) (n : Nat) : (σ n).Inv := by
  induction n with
  | zero => exact h.start
  | succ n ih => exact everyStepKeepsInvariant ((σ n).present (ε n)) _ ih (h.run n)

/-- In a fair run the mode of a cycle is left, or an event comes in it that brings the cycle forward (R244). -/
theorem FairRun.exists_advance (h : FairRun σ ε) {n : Nat} (hm : (σ n).mode ≠ .idle) :
    ∃ m, n ≤ m ∧ ((σ m).mode ≠ (σ n).mode ∨ ((σ m).present (ε m)).Advances) := by
  by_cases harmed : (σ n).mode = .armed
  · obtain ⟨m, hle, hleft | hw⟩ := h.duty n
    · exact ⟨m, hle, .inl (harmed ▸ hleft)⟩
    · refine ⟨m, hle, or_iff_not_imp_left.mpr fun hsame => .inr ⟨?_, congrArg some hw⟩⟩
      exact (not_ne_iff.mp hsame).trans harmed
  · obtain ⟨m, hle, hoff | htick⟩ := h.ticks n
    · refine ⟨m, hle, .inl fun hsame => ?_⟩
      have hon := (h.inv m).enabled_tick_of_role (hsame ▸ hm) (hsame ▸ harmed)
      exact Bool.false_ne_true (hoff.symm.trans hon)
    · exact ⟨m, hle, .inr (.inl htick)⟩

theorem FairRun.advancesLeft_lt (h : FairRun σ ε) {n : Nat} (hm : (σ n).mode ≠ .idle) (ha : ((σ n).present (ε n)).Advances) :
    (σ (n + 1)).advancesLeft < (σ n).advancesLeft :=
  State.Inv.advancesLeft_lt (s := (σ n).present (ε n)) (h.inv n) hm (h.run n) ha

/-- Up to the point where its mode is left or an advance comes, a cycle ends or comes forward. -/
theorem FairRun.idle_or_forward (h : FairRun σ ε) (k : Nat) {n : Nat} (hm : (σ n).mode ≠ .idle)
    (hk : (σ (n + k)).mode ≠ (σ n).mode ∨ ((σ (n + k)).present (ε (n + k))).Advances) :
    ∃ m, n ≤ m ∧ ((σ m).mode = .idle ∨ (σ m).advancesLeft < (σ n).advancesLeft) := by
  induction k generalizing n with
  | zero =>
    have ha := hk.resolve_left (fun hne => hne rfl)
    exact ⟨n + 1, n.le_succ, .inr (h.advancesLeft_lt hm ha)⟩
  | succ k ih =>
    by_cases ha : ((σ n).present (ε n)).Advances
    · exact ⟨n + 1, n.le_succ, .inr (h.advancesLeft_lt hm ha)⟩
    · have hstep := State.Inv.idle_or_same_of_not_advances (s := (σ n).present (ε n)) (h.inv n) hm (h.run n) ha
      rcases hstep with hidle | ⟨hmode, hcount⟩
      · exact ⟨n + 1, n.le_succ, .inl hidle⟩
      · have hmode' : (σ (n + 1)).mode = (σ n).mode := hmode
        have hcount' : (σ (n + 1)).advancesLeft = (σ n).advancesLeft := hcount
        rw [← hmode', show n + (k + 1) = n + 1 + k by omega] at hk
        obtain ⟨m, hle, hfwd⟩ := ih (hmode' ▸ hm) hk
        exact ⟨m, by omega, hcount' ▸ hfwd⟩

/-- Every cycle of a fair run ends: it comes forward again and again, and has finitely many ticks and hand-offs to take (R178). -/
theorem FairRun.exists_idle (h : FairRun σ ε) (n : Nat) : ∃ m, n ≤ m ∧ (σ m).mode = .idle := by
  induction hleft : (σ n).advancesLeft using Nat.strong_induction_on generalizing n with
  | _ left ih =>
    by_cases hm : (σ n).mode = .idle
    · exact ⟨n, le_rfl, hm⟩
    · obtain ⟨m, hle, hfair⟩ := h.exists_advance hm
      rw [← Nat.add_sub_cancel' hle] at hfair
      obtain ⟨p, hp, hidle | hlt⟩ := h.idle_or_forward (m - n) hm hfair
      · exact ⟨p, hp, hidle⟩
      · obtain ⟨q, hq, hidle⟩ := ih _ (hleft ▸ hlt) p rfl
        exact ⟨q, hp.trans hq, hidle⟩

end

/-- Settles O46: by induction on the ticks and hand-offs that the cycle still takes. -/
theorem fairCyclesEnd : Obligations.FairCyclesEnd := fun _ _ hstart hrun hticks hduty =>
  FairRun.exists_idle ⟨hstart, hrun, hticks, hduty⟩

end Machine

end Sys2Proof
end

section
/-! The exceptions family (60_exceptions.md): the table of enabledness (R205), and which enabled events give the same state in either
order (R206). In every pair that commutes one of the two operations, an `EDGE` already latched or a `HANDOFF` outside ARMED, changes
nothing before the other and nothing after it. -/

namespace Sys2Proof

/-- Two distinct events that are neither RESET nor STATUS: one of them is an EDGE or a HANDOFF, or they are `ESVC` and a `TICK`. -/
theorem Evt.distinct_cases {e e' : Evt} (hne : e ≠ e') (hr : e ≠ .reset) (hr' : e' ≠ .reset) (hs : e ≠ .status)
    (hs' : e' ≠ .status) : e = .edge ∨ e' = .edge ∨ e = .handoff ∨ e' = .handoff ∨ e = .esvc ∧ e' = .tick ∨
      e = .tick ∧ e' = .esvc := by
  revert hne hr hr' hs hs'
  cases e <;> cases e' <;> decide

/-- Every event but a tick has one operation (R74). -/
theorem Instr.eq_of_evt {i j : Instr} (h : i.evt = j.evt) (hj : j.evt ≠ .tick) : i = j := by
  cases j with
  | tickSmp | tickTxStart | tickTxData | tickTxStop => exact absurd rfl hj
  | reset | edge | esvc | handoff | status =>
    cases i <;> cases h
    rfl

namespace Machine

/-! ### Two events serviced one after the other -/

/-- In either order `i` and `j` complete from `s`, and both orders lead to one state (R206). -/
def State.Commutes (s : State) (i j : Instr) : Prop :=
  ∃ t, (∃ u, exec i s = .next u ∧ exec j u = .next t) ∧ ∃ u, exec j s = .next u ∧ exec i u = .next t

theorem State.Commutes.symm {s : State} {i j : Instr} (h : s.Commutes i j) : s.Commutes j i := by
  obtain ⟨t, hij, hji⟩ := h
  exact ⟨t, hji, hij⟩

/-- An operation that changes nothing, either before `j` or after it, commutes with `j`. -/
theorem State.Commutes.of_ineffective {s t : State} {i j : Instr} (hj : exec j s = .next t) (hs : exec i s = .next s)
    (ht : exec i t = .next t) : s.Commutes i j :=
  ⟨t, ⟨s, hs, hj⟩, ⟨t, hj, ht⟩⟩

/-- Two queued events, the second serviced where the first leads. -/
theorem runSteps_two_words {s u t : State} {i j : Instr} (hc : s.cfg.wf = true) (hi : exec i s = .next u)
    (hj : exec j u = .next t) (rest : List Stimulus) :
    runSteps 2 { s with inputs := .word i.word :: .word j.word :: rest } = .next { t with inputs := rest } := by
  obtain ⟨hcfg, -⟩ := exec_cfg_inputs i s u hi
  obtain ⟨hsel, -⟩ := exec_next_selected hi
  obtain ⟨hsel', -⟩ := exec_next_selected hj
  have hfirst := (step_of_queued_event (s := { s with inputs := .word i.word :: .word j.word :: rest }) i hc rfl rfl hsel).trans
    (exec_inputs i s u _ hi)
  have hsecond := (step_of_queued_event (s := { u with inputs := .word j.word :: rest }) j (hcfg ▸ hc) rfl rfl hsel').trans
    (exec_inputs j u t _ hj)
  exact (runSteps_succ_of_next hfirst 1).trans (runSteps_succ_of_next hsecond 0)

/-- Operations that commute give the same run of two steps, whichever is queued first. -/
theorem State.Commutes.runSteps {s : State} {i j : Instr} (h : s.Commutes i j) (hc : s.cfg.wf = true) (rest : List Stimulus) :
    ∃ t, runSteps 2 { s with inputs := .word i.word :: .word j.word :: rest } = .next t ∧
      runSteps 2 { s with inputs := .word j.word :: .word i.word :: rest } = .next t := by
  obtain ⟨t, ⟨u, hi, hj⟩, ⟨v, hj', hi'⟩⟩ := h
  exact ⟨_, runSteps_two_words hc hi hj rest, runSteps_two_words hc hj' hi' rest⟩

/-! ### Where an EDGE and a HANDOFF change nothing -/

/-- An edge that is latched already changes nothing (R101, R104). -/
theorem exec_edge_of_pending {s : State} (h : s.edgeIfg = true) : exec .edge s = .next s :=
  congrArg _ (State.latchEdge_of_pending h)

/-- A HANDOFF outside ARMED changes nothing (R141). -/
theorem exec_handoff_of_not_armed {s : State} (h : s.mode ≠ .armed) : exec .handoff s = .next s := if_neg h

/-- A tick inside a cycle does not lead to IDLE, but for the one that completes the transmission (R170). -/
theorem mode_ne_idle_of_tick {s t : State} {i : Instr} (he : i.evt = .tick) (hm : s.mode ≠ .idle) (ht : exec i s = .next t)
    (hlast : ¬ (s.mode = .transmitting ∧ s.txs = .stop ∧ s.txbyte.toNat = s.cfg.cap)) : t.mode ≠ .idle := by
  rcases exec_mode_cases ht with hsame | ⟨rfl, -⟩ | ⟨-, -, -, -, harmed, -⟩ | ⟨rfl, -⟩ | ⟨-, htx, hx, hcap, -⟩ | ⟨rfl, -⟩
  · rwa [hsame]
  · cases he
  · rw [harmed]; decide
  · cases he
  · exact absurd ⟨htx, hx, hcap⟩ hlast
  · cases he

/-- A tick outside ARMED does not lead there, but for the one that completes the capture (R170). -/
theorem mode_ne_armed_of_tick {s t : State} {i : Instr} (he : i.evt = .tick) (hm : s.mode ≠ .armed) (ht : exec i s = .next t)
    (hlast : ¬ (s.mode = .sampling ∧ s.sbit = 7 ∧ (s.sbyte + 1).toNat = s.cfg.cap)) : t.mode ≠ .armed := by
  rcases exec_mode_cases ht with hsame | ⟨rfl, -⟩ | ⟨-, hsmp, h7, hcap, -⟩ | ⟨rfl, -⟩ | ⟨-, -, -, -, rfl⟩ | ⟨rfl, -⟩
  · rwa [hsame]
  · cases he
  · exact absurd ⟨hsmp, h7, hcap⟩ hlast
  · cases he
  · exact Mode.noConfusion
  · cases he

/-- In a state of the invariant an enabled tick finds the block in SAMPLING or TRANSMITTING (R177). -/
theorem State.Inv.mode_ne_of_enabled_tick {s : State} (h : s.Inv) (he : s.enabled .tick = true) :
    s.mode ≠ .idle ∧ s.mode ≠ .armed := by
  rcases h.tick_role he with hm | ⟨hm, -⟩ <;> rw [hm] <;> decide

/-! ### The pairs of R206 -/

/-- An `EDGE` and an `ESVC`: the edge that enables the service is pending, and the service leaves it pending (R102, R103). -/
theorem State.commutes_edge_esvc {s t : State} (ht : exec .esvc s = .next t) : s.Commutes .edge .esvc := by
  obtain ⟨he, rfl⟩ := execEsvc_next s t ht
  have hifg : s.edgeIfg = true := by
    simp only [State.enabled, State.esvcEnabled, Bool.and_eq_true] at he
    obtain ⟨⟨-, hifg⟩, -⟩ := he
    exact hifg
  exact .of_ineffective ht (exec_edge_of_pending hifg) (exec_edge_of_pending hifg)

/-- An `EDGE` and a `HANDOFF`: in ARMED the edge is pending, before the transmission begins and after; elsewhere the hand-off is
ignored (R104, R140, R141). -/
theorem State.Inv.commutes_edge_handoff {s : State} (h : s.Inv) : s.Commutes .edge .handoff := by
  by_cases hm : s.mode = .armed
  · obtain ⟨-, -, hifg, -⟩ := h.armed hm
    exact .of_ineffective (if_pos hm) (exec_edge_of_pending hifg) (exec_edge_of_pending (s := s.startTransmission) hifg)
  · exact (State.Commutes.of_ineffective (j := .edge) rfl (exec_handoff_of_not_armed hm)
      (exec_handoff_of_not_armed (s := s.latchEdge) hm)).symm

/-- An `EDGE` and a tick that does not complete the transmission: the edge is pending throughout the cycle (R104). -/
theorem State.Inv.commutes_edge_tick {s t : State} {j : Instr} (h : s.Inv) (he : j.evt = .tick) (ht : exec j s = .next t)
    (hlast : ¬ (s.mode = .transmitting ∧ s.txs = .stop ∧ s.txbyte.toNat = s.cfg.cap)) : s.Commutes .edge j := by
  obtain ⟨-, henabled⟩ := exec_next_selected ht
  rw [he] at henabled
  obtain ⟨hm, -⟩ := h.mode_ne_of_enabled_tick henabled
  obtain ⟨-, hifg⟩ := h.edges_of_cycle hm
  obtain ⟨-, hifg'⟩ := (h.exec_next ht).edges_of_cycle (mode_ne_idle_of_tick he hm ht hlast)
  exact .of_ineffective ht (exec_edge_of_pending hifg) (exec_edge_of_pending hifg')

/-- A `HANDOFF` and an `ESVC`: the service leads from IDLE to SAMPLING, and in both the hand-off is ignored (R141). -/
theorem State.commutes_handoff_esvc {s t : State} (ht : exec .esvc s = .next t) : s.Commutes .handoff .esvc := by
  obtain ⟨he, rfl⟩ := execEsvc_next s t ht
  have hm : s.mode ≠ .armed := by rw [s.mode_of_enabled_esvc he]; decide
  exact .of_ineffective ht (exec_handoff_of_not_armed hm) (exec_handoff_of_not_armed (s := s.arm) Mode.noConfusion)

/-- A `HANDOFF` and a tick that does not complete the capture: neither before the tick nor after it is the block in ARMED (R141). -/
theorem State.Inv.commutes_handoff_tick {s t : State} {j : Instr} (h : s.Inv) (he : j.evt = .tick) (ht : exec j s = .next t)
    (hlast : ¬ (s.mode = .sampling ∧ s.sbit = 7 ∧ s.sbyte.toNat + 1 = s.cfg.cap)) : s.Commutes .handoff j := by
  obtain ⟨-, henabled⟩ := exec_next_selected ht
  rw [he] at henabled
  obtain ⟨-, hm⟩ := h.mode_ne_of_enabled_tick henabled
  obtain ⟨-, hmax, -⟩ := s.cfg.wf_iff.mp h.cfg_wf
  have hlast' : ¬ (s.mode = .sampling ∧ s.sbit = 7 ∧ (s.sbyte + 1).toNat = s.cfg.cap) := by
    rintro ⟨hsmp, h7, hcap⟩
    have hlt := h.sbyte_lt_cap hsmp
    exact hlast ⟨hsmp, h7, by bv_omega⟩
  exact .of_ineffective ht (exec_handoff_of_not_armed hm) (exec_handoff_of_not_armed (mode_ne_armed_of_tick he hm ht hlast'))

/-- An `EDGE` commutes with every other operation that completes, RESET, STATUS and the completing stop tick apart (R206). -/
theorem State.Inv.commutes_edge {s t : State} {j : Instr} (h : s.Inv) (ht : exec j s = .next t) (hne : j.evt ≠ .edge)
    (hr : j.evt ≠ .reset) (hs : j.evt ≠ .status)
    (hlast : ¬ (j.evt = .tick ∧ s.mode = .transmitting ∧ s.txs = .stop ∧ s.txbyte.toNat = s.cfg.cap)) : s.Commutes .edge j := by
  cases he : j.evt with
  | reset => exact absurd he hr
  | edge => exact absurd he hne
  | esvc => obtain rfl : j = .esvc := Instr.eq_of_evt he Evt.noConfusion; exact State.commutes_edge_esvc ht
  | tick => exact h.commutes_edge_tick he ht fun hl => hlast ⟨he, hl⟩
  | handoff => obtain rfl : j = .handoff := Instr.eq_of_evt he Evt.noConfusion; exact h.commutes_edge_handoff
  | status => exact absurd he hs

/-- A `HANDOFF` commutes with every other operation that completes, RESET, STATUS and the completing sampling tick apart (R206,
entry 24). -/
theorem State.Inv.commutes_handoff {s t : State} {j : Instr} (h : s.Inv) (ht : exec j s = .next t) (hne : j.evt ≠ .handoff)
    (hr : j.evt ≠ .reset) (hs : j.evt ≠ .status)
    (hlast : ¬ (j.evt = .tick ∧ s.mode = .sampling ∧ s.sbit = 7 ∧ s.sbyte.toNat + 1 = s.cfg.cap)) : s.Commutes .handoff j := by
  cases he : j.evt with
  | reset => exact absurd he hr
  | edge => obtain rfl : j = .edge := Instr.eq_of_evt he Evt.noConfusion; exact h.commutes_edge_handoff.symm
  | esvc => obtain rfl : j = .esvc := Instr.eq_of_evt he Evt.noConfusion; exact State.commutes_handoff_esvc ht
  | tick => exact h.commutes_handoff_tick he ht fun hl => hlast ⟨he, hl⟩
  | handoff => exact absurd he hne
  | status => exact absurd he hs

/-- No `ESVC` is enabled beside a tick: the one needs IDLE, where the timer stands (R176, R205). -/
theorem State.Inv.not_enabled_esvc_tick {s : State} (h : s.Inv) (hesvc : s.enabled .esvc = true) : s.enabled .tick ≠ true := by
  intro htick
  obtain ⟨hm, -⟩ := h.mode_ne_of_enabled_tick htick
  exact hm (s.mode_of_enabled_esvc hesvc)

/-! ### The obligations -/

/-- Settles O52: of two distinct events, one is an EDGE or a HANDOFF, which the exceptions let commute; an `ESVC` and a tick are
never enabled together. -/
theorem enabledPairsCommuteOutsideExceptions : Obligations.EnabledPairsCommuteOutsideExceptions := by
  intro s ew ew' e e' d d' rest h hf hf' he he' hne hr hr' hs hs' hedge hhandoff
  obtain ⟨i, rfl, rfl, hi⟩ := h.exists_selected hf he
  obtain ⟨j, rfl, rfl, hj⟩ := h.exists_selected hf' he'
  obtain ⟨t, ht⟩ := exec_completes i s hi he h.sbyte_lt_cap
  obtain ⟨t', ht'⟩ := exec_completes j s hj he' h.sbyte_lt_cap
  suffices hcomm : s.Commutes i j from hcomm.runSteps h.cfg_wf rest
  rcases Evt.distinct_cases hne hr hr' hs hs' with hev | hev | hev | hev | ⟨hev, hev'⟩ | ⟨hev, hev'⟩
  · obtain rfl : i = .edge := Instr.eq_of_evt hev Evt.noConfusion
    exact h.commutes_edge ht' hne.symm hr' hs' fun ⟨htick, hl⟩ => hedge ⟨.inl ⟨hev, htick⟩, hl⟩
  · obtain rfl : j = .edge := Instr.eq_of_evt hev Evt.noConfusion
    exact (h.commutes_edge ht hne hr hs fun ⟨htick, hl⟩ => hedge ⟨.inr ⟨htick, hev⟩, hl⟩).symm
  · obtain rfl : i = .handoff := Instr.eq_of_evt hev Evt.noConfusion
    exact h.commutes_handoff ht' hne.symm hr' hs' fun ⟨htick, hl⟩ => hhandoff ⟨.inl ⟨hev, htick⟩, hl⟩
  · obtain rfl : j = .handoff := Instr.eq_of_evt hev Evt.noConfusion
    exact (h.commutes_handoff ht hne hr hs fun ⟨htick, hl⟩ => hhandoff ⟨.inr ⟨htick, hev⟩, hl⟩).symm
  · exact absurd (hev' ▸ he') (h.not_enabled_esvc_tick (hev ▸ he))
  · exact absurd (hev ▸ he) (h.not_enabled_esvc_tick (hev' ▸ he'))

/-- Settles O38: beside a second EDGE the two orders are one, and every other pair is a case of O52. -/
theorem edgeCommutesWithOtherEvents : Obligations.EdgeCommutesWithOtherEvents := by
  intro s ew e d rest h hf he hr hs hlast
  by_cases hedge : e = .edge
  · subst hedge
    obtain rfl := fields_eq_word hf
    obtain rfl : d = false := (fields_dataBit hf).resolve_left Evt.noConfusion
    rfl
  · obtain ⟨t, hfirst, hsecond⟩ := enabledPairsCommuteOutsideExceptions s (mkWord .edge false) ew .edge e false d rest h rfl hf rfl he
      (Ne.symm hedge) Evt.noConfusion hr Evt.noConfusion hs (by simpa using hlast) (by simp)
    exact hfirst.trans hsecond.symm

/-- The last sample of a capture on this hardware: cursor (200, 7). -/
def lastSample : State :=
  { State.reset with mode := .sampling, tmr := .sample, edgeIe := false, edgeIfg := true, sbyte := 200, sbit := 7 }

theorem lastSample_inv : lastSample.Inv :=
  .of_sampling (by decide) rfl (by decide)

/-- Refutes O40: before the tick that takes the last sample a HANDOFF is ignored and the block waits in ARMED; after that tick it
starts the transmission. -/
theorem not_everyOtherEnabledPairCommutes : ¬ Obligations.EveryOtherEnabledPairCommutes := by
  intro hall
  have horders := hall lastSample (mkWord .handoff false) (mkWord .tick true) .handoff .tick false true [] lastSample_inv rfl rfl rfl rfl
    (by decide) (by decide) (by decide) (by decide) (by decide) (by decide)
  obtain ⟨⟨t, ht, harmed, -⟩, ⟨t', ht', htx, -⟩⟩ := handoffRacesCaptureCompletion lastSample true [] lastSample_inv rfl rfl rfl
  obtain rfl : t = t' := Host.Outcome.next.inj (ht.symm.trans (horders.trans ht'))
  exact absurd (harmed.symm.trans htx) (by decide)

/-- Settles O6: the table, with the two guards read off their checks. -/
theorem enabledEventsFollowTable : Obligations.EnabledEventsFollowTable := fun s =>
  ⟨rfl, rfl, by simp [State.enabled, State.esvcEnabled, and_assoc], by simp [State.enabled, State.tickEnabled], rfl, rfl⟩

end Machine

end Sys2Proof
end
